-- ==== Sys2Proof/Word.lean ====
section
/-! DEFINITION. The word types of the block (spec/00_scope.md R10, R11). -/

namespace Sys2Proof

/-- A byte: 8 bits (R11). -/
abbrev Byte := BitVec 8

/-- A coordinate operand or window bound: 16 bits, unsigned (R73, R124). -/
abbrev Half := BitVec 16

end Sys2Proof
end

