-- ==== Sys2Proof/Config.lean ====
section
/-! DEFINITION. What an implementation fixes, and the free values of the environment
(spec/00_scope.md section 4, spec/10_state.md R23, R27, spec/42_host_sequences.md R151, R168, R172). -/

namespace Sys2Proof

/-- The two select levels a frame may have (R22, R27). -/
inductive Level where
  | command
  | data
  deriving DecidableEq, Repr, Inhabited

/-- FREE VALUE: which numbers, besides 0, code an error value of the transport. It is the parameter type of R9 as a
constant without a body, so nothing can be proved of how many errors there are. notes/assumptions/8.md. -/
opaque Config.codesTransportError : Nat → Bool

/-- `TransportError`, the parameter type of the transport's error values (R9, R10, D9): the values that
`Config.codesTransportError` admits, and one at the least. The block never inspects a value of it.
DESIGN CHOICE, notes/assumptions/8.md. -/
structure TransportError where
  code  : Nat
  codes : code = 0 ∨ Config.codesTransportError code = true
  deriving DecidableEq, Repr

/-- What the transport says when it is consulted about the frame in transfer: an outcome (R27), or nothing yet (R199). -/
inductive TransportAnswer where
  | pending
  | ok
  | err (e : TransportError)
  deriving DecidableEq, Repr, Inhabited

/-- The block's instantiation parameters (R7, R8). -/
structure Params where
  panelWidth  : Nat
  panelHeight : Nat
  cmdCaset    : Byte
  cmdRaset    : Byte
  cmdRamwr    : Byte
  deriving DecidableEq, Repr

/-- The values for this hardware: a 240 by 240 panel (R7), and the spec's default command bytes, which it marks as
general knowledge (R8). PRESUMED for the command bytes, notes/assumptions/9.md. -/
def Params.default : Params where
  panelWidth  := 240
  panelHeight := 240
  cmdCaset    := 0x2A#8
  cmdRaset    := 0x2B#8
  cmdRamwr    := 0x2C#8

/-- The range of the panel parameters (R7). -/
def Params.panelFits (p : Params) : Bool :=
  decide (1 ≤ p.panelWidth ∧ p.panelWidth ≤ 65535 ∧ 1 ≤ p.panelHeight ∧ p.panelHeight ≤ 65535)

/-- The three command bytes are pairwise distinct, which R8 lets a model take as a premise. -/
def Params.commandsDistinct (p : Params) : Bool :=
  decide (p.cmdCaset ≠ p.cmdRaset ∧ p.cmdCaset ≠ p.cmdRamwr ∧ p.cmdRaset ≠ p.cmdRamwr)

/-- `MAX_DATA_LEN` (R10, R74). -/
def maxDataLen : Nat := 2 ^ 32 - 1

/-- FREE VALUE: what the transport answers at its `n`-th consultation, under no law (R27, D17, R199). It has no body, so
nothing can be proved of it. notes/assumptions/5.md. -/
opaque Config.transportAnswer : Nat → TransportAnswer

/-- FREE VALUE: the level the select line has from reset until the first frame (R23, D7). notes/assumptions/7.md. -/
opaque Config.initialSelectLevel : Level

/-- A Command Descriptor of the initialization table (R172). -/
structure Descriptor where
  command : Byte
  payload : List Byte
  deriving DecidableEq, Repr

/-- A descriptor's payload has at most 16 bytes (R172). -/
def Descriptor.fits (d : Descriptor) : Bool := decide (d.payload.length ≤ 16)

/-- The host driver's parameters: command values (R151), the OPEN access-control bytes (R168), the OPEN vendor table
(R172) and the delays in milliseconds (R167, R171, R175). -/
structure HostParams where
  cmdSwreset    : Byte
  cmdMadctl     : Byte
  cmdDispon     : Byte
  cmdDispoff    : Byte
  cmdInvon      : Byte
  cmdInvoff     : Byte
  rotationTable : Vector Byte 8
  bgrFlag       : Byte
  initTable     : List Descriptor
  tReset        : Nat
  tSwreset      : Nat
  tInitStep     : Nat
  deriving DecidableEq, Repr

/-- The spec's defaults for every host parameter that has one (R151, R167, R171, R175); the OPEN ones are arguments.
PRESUMED for the command bytes, notes/assumptions/9.md. -/
def HostParams.default (rotationTable : Vector Byte 8) (bgrFlag : Byte) (initTable : List Descriptor) : HostParams where
  cmdSwreset    := 0x01#8
  cmdMadctl     := 0x36#8
  cmdDispon     := 0x29#8
  cmdDispoff    := 0x28#8
  cmdInvon      := 0x21#8
  cmdInvoff     := 0x20#8
  rotationTable := rotationTable
  bgrFlag       := bgrFlag
  initTable     := initTable
  tReset        := 200
  tSwreset      := 100
  tInitStep     := 10

end Sys2Proof
end

