-- ==== Sys2Proof/Syntax.lean ====
section
/-! DEFINITION. The instructions: one constructor for each row of spec/opcode_table.json. -/

namespace Sys2Proof

/-- The rows of the opcode table. The first four are requests on the request port (R70, R76). The last three are the
command frames the window sequencer emits (R79, R127); the sequencer runs them when `phase`, the block's analogue of a
program counter (R24), selects them. -/
inductive Instr where
  /-- CMD (R101): send one command byte. -/
  | cmd (c : Byte)
  /-- DATA (R105): send a data payload. -/
  | data (payload : List Byte)
  /-- SET_WINDOW (R121): program a window and arm memory-write. -/
  | setWindow (x y w h : Half)
  /-- RESERVED (R76): a request whose header byte is 0x00 or 0x04..0xFF. -/
  | reserved (op : Byte)
  /-- CASET_FRAME (R127): the column-address-set command frame and its payload frame. -/
  | casetFrame
  /-- RASET_FRAME (R127): the row-address-set command frame and its payload frame. -/
  | rasetFrame
  /-- RAMWR_FRAME (R127, R131): the memory-write command frame, with no payload. -/
  | ramwrFrame
  deriving DecidableEq, Repr

/-- The two places where an encoding of a row stands: the request port (R71) or the transport port (R78). -/
inductive Port where
  | request
  | transport
  deriving DecidableEq, Repr

/-- Where a row's encoding stands (R81: the three command bytes are output encodings, not request encodings). -/
def Instr.port : Instr → Port
  | .cmd _ => .request
  | .data _ => .request
  | .setWindow _ _ _ _ => .request
  | .reserved _ => .request
  | .casetFrame => .transport
  | .rasetFrame => .transport
  | .ramwrFrame => .transport

end Sys2Proof
end

