-- ==== Sys2Proof/WellFormed.lean ====
section
/-! DEFINITION. Which instructions have an encoding (spec/30_encoding.md R70 to R76). -/

namespace Sys2Proof

/-- A header value that no request has (R71, R76). -/
def headerReserved (op : Byte) : Bool :=
  decide (op ≠ 0x01#8 ∧ op ≠ 0x02#8 ∧ op ≠ 0x03#8)

/-- A payload is no longer than `MAX_DATA_LEN` (R70, R74); a reserved request's header is a reserved value (R76).
Every command byte and every four operands are legal (R72, R73). -/
def Instr.wf : Instr → Bool
  | .cmd _ => true
  | .data payload => decide (payload.length ≤ maxDataLen)
  | .setWindow _ _ _ _ => true
  | .reserved op => headerReserved op
  | .casetFrame => true
  | .rasetFrame => true
  | .ramwrFrame => true

end Sys2Proof
end

