-- ==== Sys2Proof/Decode.lean ====
section
/-! DEFINITION. The decoder, total on any bytes, and the encoder (spec/30_encoding.md R71 to R81). -/

namespace Sys2Proof

/-- `hi8(v) = v[15:8]` (R11). -/
def hi8 (v : Half) : Byte := v.extractLsb' 8 8

/-- `lo8(v) = v[7:0]` (R11). -/
def lo8 (v : Half) : Byte := v.extractLsb' 0 8

/-- A 16-bit field from its two bytes, high byte first (R71, R73). -/
def halfOfBytes (hi lo : Byte) : Half := hi ++ lo

/-- A 16-bit value as two bytes, high byte first (R53). -/
def bytesOfHalf (v : Half) : List Byte := [hi8 v, lo8 v]

/-- The 32-bit length field from its four bytes, big-endian (R74). -/
def lengthOfBytes (b3 b2 b1 b0 : Byte) : Nat :=
  ((b3.toNat * 256 + b2.toNat) * 256 + b1.toNat) * 256 + b0.toNat

/-- A length as the four bytes of its field, big-endian (R74). -/
def bytesOfLength (n : Nat) : List Byte :=
  [BitVec.ofNat 8 (n / 16777216), BitVec.ofNat 8 (n / 65536), BitVec.ofNat 8 (n / 256), BitVec.ofNat 8 n]

/-- Why no instruction is read. -/
inductive DecodeError where
  /-- There is no byte to read. -/
  | noBytes
  /-- The bytes end inside a request (R77). -/
  | truncated
  /-- A command frame's byte that is none of the sequencer's three command bytes: the frame of a CMD request (R81, R104). -/
  | notSequencerFrame
  deriving DecidableEq, Repr

/-- What the decoder gives: an instruction and the bytes after it, or the reason there is none. -/
inductive Decoded where
  | instr (i : Instr) (rest : List Byte)
  | rejected (why : DecodeError)
  deriving DecidableEq, Repr

/-- CMD after its header: one operand byte (R72). -/
def decodeCmd : List Byte → Decoded
  | c :: rest => .instr (.cmd c) rest
  | [] => .rejected .truncated

/-- DATA after its header: a 32-bit length, then that many payload bytes (R74). -/
def decodeData : List Byte → Decoded
  | b3 :: b2 :: b1 :: b0 :: rest =>
    if lengthOfBytes b3 b2 b1 b0 ≤ rest.length then
      .instr (.data (rest.take (lengthOfBytes b3 b2 b1 b0))) (rest.drop (lengthOfBytes b3 b2 b1 b0))
    else .rejected .truncated
  | _ => .rejected .truncated

/-- SET_WINDOW after its header: four 16-bit fields (R73). -/
def decodeWindow : List Byte → Decoded
  | x1 :: x0 :: y1 :: y0 :: w1 :: w0 :: h1 :: h0 :: rest =>
    .instr (.setWindow (halfOfBytes x1 x0) (halfOfBytes y1 y0) (halfOfBytes w1 w0) (halfOfBytes h1 h0)) rest
  | _ => .rejected .truncated

/-- The request at the head of the request port's bytes (R71, R75). A reserved header is one byte long (R76). -/
def decodeRequest : List Byte → Decoded
  | [] => .rejected .noBytes
  | op :: rest =>
    if op = 0x01#8 then decodeCmd rest
    else if op = 0x02#8 then decodeData rest
    else if op = 0x03#8 then decodeWindow rest
    else .instr (.reserved op) rest

/-- Which of the sequencer's command frames a command frame's byte is (R79, R127). -/
def decodeCommandFrame (p : Params) : List Byte → Decoded
  | [] => .rejected .noBytes
  | b :: rest =>
    if b = p.cmdCaset then .instr .casetFrame rest
    else if b = p.cmdRaset then .instr .rasetFrame rest
    else if b = p.cmdRamwr then .instr .ramwrFrame rest
    else .rejected .notSequencerFrame

/-- The decoder of either port. -/
def decode (p : Params) : Port → List Byte → Decoded
  | .request, bytes => decodeRequest bytes
  | .transport, bytes => decodeCommandFrame p bytes

/-- A request's length in bytes, from its header and, for DATA, its length field; none where the bytes end before
the length is known (R75). -/
def requestLength : List Byte → Option Nat
  | [] => none
  | op :: rest =>
    if op = 0x01#8 then some 2
    else if op = 0x02#8 then
      match rest with
      | b3 :: b2 :: b1 :: b0 :: _ => some (5 + lengthOfBytes b3 b2 b1 b0)
      | _ => none
    else if op = 0x03#8 then some 9
    else some 1

/-- The encoder: a request's bytes on the request port (R71 to R76); an emitted command frame's byte on the transport
port (R78, R79). -/
def encode (p : Params) : Instr → List Byte
  | .cmd c => [0x01#8, c]
  | .data payload => 0x02#8 :: (bytesOfLength payload.length ++ payload)
  | .setWindow x y w h => 0x03#8 :: (bytesOfHalf x ++ bytesOfHalf y ++ bytesOfHalf w ++ bytesOfHalf h)
  | .reserved op => [op]
  | .casetFrame => [p.cmdCaset]
  | .rasetFrame => [p.cmdRaset]
  | .ramwrFrame => [p.cmdRamwr]

/-- A row's length in bytes as the opcode table gives it (`length_bytes`, R75, R78). -/
def Instr.lengthBytes : Instr → Nat
  | .cmd _ => 2
  | .data payload => 5 + payload.length
  | .setWindow _ _ _ _ => 9
  | .reserved _ => 1
  | .casetFrame => 1
  | .rasetFrame => 1
  | .ramwrFrame => 1

/-- The low `n` bytes of a table word, the byte of bits 7..0 first. -/
def bytesOfWord : Nat → Nat → List Byte
  | 0, _ => []
  | n + 1, w => BitVec.ofNat 8 w :: bytesOfWord n (w / 256)

/-- A table word of `nbits` bits as the bytes of one request, with zero bytes for the operands above `nbits`. -/
def requestOfWord (nbits w : Nat) : List Byte :=
  bytesOfWord (nbits / 8) w ++
    match requestLength (bytesOfWord (nbits / 8) w ++ List.replicate 5 0#8) with
    | none => []
    | some len => List.replicate (len - nbits / 8) 0#8

/-- The instruction that was read, if one was. -/
def Decoded.instr? : Decoded → Option Instr
  | .instr i _ => some i
  | .rejected _ => none

/-- The emitted-frame row a table word of 8 bits stands for, with the table's (default) command bytes. -/
def decodeFrameWord (nbits w : Nat) : Option Instr :=
  if nbits = 8 then (decodeCommandFrame Params.default (bytesOfWord 1 w)).instr? else none

/-- The instruction a table word stands for. A word of 8 bits that is one of the three command bytes stands for that
emitted-frame row; every other word stands for a request. The same byte on the request port is a reserved header.
DESIGN CHOICE, notes/assumptions/11.md. -/
def decodeTableWord (nbits w : Nat) : Option Instr :=
  match decodeFrameWord nbits w with
  | some i => some i
  | none => (decodeRequest (requestOfWord nbits w)).instr?

end Sys2Proof
end

