-- ==== Sys2Proof/Machine/State.lean ====
section
/-! DEFINITION. The state of the block and of its ports, plain data, and the state after reset
(spec/10_state.md R21 to R33, spec/60_exceptions.md R190, spec/70_reset_and_hazards.md R220). -/

namespace Sys2Proof.Machine

/-- What the select-line register `dc` holds (R21, R22, R23). -/
inductive SelectLine where
  | command
  | data
  /-- Nothing has set the line since reset (R23). -/
  | unknown
  deriving DecidableEq, Repr

/-- The eight phases (R24). -/
inductive Phase where
  | idle
  | fCmd
  | fData
  | wCasetC
  | wCasetD
  | wRasetC
  | wRasetD
  | wRamwrC
  deriving DecidableEq, Repr

/-- A request that can be latched in `req`, with its operands (R25, R70). -/
inductive Request where
  | cmd (c : Byte)
  | data (payload : List Byte)
  | setWindow (x y w h : Half)
  deriving DecidableEq, Repr

/-- The outcome of a frame (R27). -/
inductive FrameOutcome where
  | ok
  | err (e : TransportError)
  deriving DecidableEq, Repr

/-- One transport transaction (R27). -/
structure Frame where
  level   : Level
  bytes   : List Byte
  outcome : FrameOutcome
  deriving DecidableEq, Repr

/-- The response of a request (R190). -/
inductive Response where
  | ok
  | invalidArgument
  | transportFailure (e : TransportError)
  deriving DecidableEq, Repr

/-- The state. The first four fields are the block's architectural state, which R21 says is exactly these. `params` are
its instantiation parameters, which no step writes. The last four are the model's own: the environment's inputs and the
outputs to it, as plain data. -/
structure State where
  /-- The select-line register (R22). -/
  dc : SelectLine
  /-- The sequencer's phase (R24). -/
  phase : Phase
  /-- The latched request (R25). -/
  req : Option Request
  /-- Every frame emitted since reset, oldest first (R27). -/
  trace : List Frame
  /-- The instantiation parameters (R7, R8). notes/assumptions/9.md. -/
  params : Params
  /-- The request bytes the host has still to present (R30, R71). notes/assumptions/2.md. -/
  port : List Byte
  /-- The transport's next answers; when none is left the free value `Config.transportAnswer` answers (R27, R199).
  notes/assumptions/5.md. -/
  answers : List TransportAnswer
  /-- How often the transport has been consulted; the free value's index. notes/assumptions/5.md. -/
  draws : Nat
  /-- The responses given, oldest first: an output no step reads (R21, R190, R232). notes/assumptions/10.md. -/
  responses : List Response
  deriving DecidableEq, Repr

/-- Why the machine stops. -/
inductive Fault where
  /-- Raised by `step` in IDLE when the port's bytes end inside a request: "A model has no step for a truncated request"
  (R77). Safe. -/
  | truncatedRequest
  /-- Raised by `step` in F_CMD or F_DATA when no request is latched; R25 rules such a state out. Safe. -/
  | phaseWithoutRequest
  deriving DecidableEq, Repr

/-- Why an instruction has no meaning. -/
inductive Refusal where
  /-- Raised by an arm of `exec` that has no meaning yet. Safe. -/
  | notModelled (mnemonic : String)
  /-- Raised by a request's meaning when `phase` is neither IDLE nor that request's own phase: a request presented while
  another runs, which the source calls undefined (R30, R201). Safe. -/
  | overlappingRequest
  /-- Raised by an emitted-frame row's meaning outside the phases that emit it (R127), or with no window request latched,
  which R25 rules out. Safe. -/
  | frameOutsideItsPhase
  deriving DecidableEq, Repr

/-- The block after reset: `dc` Unknown, IDLE, no request, an empty trace (R21, R220), the parameters of this hardware,
and nothing at the ports (DESIGN CHOICE, notes/assumptions/20.md). -/
def State.reset : State where
  dc        := .unknown
  phase     := .idle
  req       := none
  trace     := []
  params    := Params.default
  port      := []
  answers   := []
  draws     := 0
  responses := []

end Sys2Proof.Machine
end

