-- ==== Sys2Proof/Machine/Operands.lean ====
section
/-! DEFINITION. Operand forms: the payload space and the window bounds (spec/20_memory.md R52, R54,
spec/30_encoding.md R80, spec/41_window_sequencer.md R124, R125). -/

namespace Sys2Proof.Machine

/-- `PayloadRead(i)`: the byte at index `i` of the payload (R52); none outside `0 .. L-1`. -/
def payloadRead (payload : List Byte) (i : Nat) : Option Byte := payload[i]?

/-- `cs` or `rs`: the first column or row of the window (R124). -/
def boundStart (origin : Half) : Half := origin

/-- `ce = (x + w - 1) mod 2^16`, and `re` likewise (R80, R124, R125). -/
def boundEnd (origin extent : Half) : Half := origin + extent - 1

/-- The 4-byte payload of a bound pair: start then end, each high byte first (R79, R80). -/
def boundPayload (origin extent : Half) : List Byte :=
  bytesOfHalf (boundStart origin) ++ bytesOfHalf (boundEnd origin extent)

/-- The instruction that a latched request is. -/
def Request.instr : Request → Instr
  | .cmd c => .cmd c
  | .data payload => .data payload
  | .setWindow x y w h => .setWindow x y w h

end Sys2Proof.Machine
end

