-- ==== Sys2Proof/Machine/Flags.lean ====
section
/-! DEFINITION. Verdicts. The block has no flags (spec/10_state.md R20); what its control depends on is the validation
verdict of SET_WINDOW (spec/41_window_sequencer.md R122) and each frame's outcome (R135). Also the responses' codes
(spec/60_exceptions.md R190). -/

namespace Sys2Proof.Machine

/-- The four comparisons of SET_WINDOW's validation, on the operands as unbounded integers (R122). -/
def windowValid (p : Params) (x y w h : Half) : Bool :=
  decide (x.toNat ≤ p.panelWidth ∧ y.toNat ≤ p.panelHeight
    ∧ x.toNat + w.toNat ≤ p.panelWidth ∧ y.toNat + h.toNat ≤ p.panelHeight)

/-- The response codes (R190, the spec's own numbers). -/
def Response.code : Response → Nat
  | .ok => 0
  | .invalidArgument => 1
  | .transportFailure _ => 2

end Sys2Proof.Machine
end

