-- ==== Sys2Proof/Machine/Ops.lean ====
section
/-! DEFINITION. The named operations over the state that every meaning is written with: the spec's pseudocode primitives
(spec/00_scope.md R12), what ends a request (spec/60_exceptions.md R190, R195), and what the block runs next
(spec/10_state.md R24, R30). -/

namespace Sys2Proof.Machine

/-- The register value that a level is (R22). -/
def selectLineOf : Level → SelectLine
  | .command => .command
  | .data => .data

/-- The level on the select line: the register's, and the free draw of R23 while the register is Unknown. -/
def State.lineLevel (s : State) : Level :=
  match s.dc with
  | .command => .command
  | .data => .data
  | .unknown => Config.initialSelectLevel

/-- The electrical level of the select line, for a transport whose "command" level is `dcCommandLevel` (R29, D16). -/
def State.linePin (dcCommandLevel : Bool) (s : State) : Bool :=
  match s.lineLevel with
  | .command => dcCommandLevel
  | .data => !dcCommandLevel

/-- `respond(r)`: end the request, back to IDLE (R12, R195). This is the block's one way out of a request, after success
and after an error alike; there is no trap entry. -/
def State.respond (r : Response) (s : State) : State :=
  { s with phase := .idle, req := none, responses := s.responses ++ [r] }

/-- `raise InvalidArgument` (R12, R123, R192). -/
def State.raiseInvalidArgument (s : State) : State := s.respond .invalidArgument

/-- `raise TransportFailure(e)` (R12, R193): the transport's error unchanged. -/
def State.raiseTransportFailure (e : TransportError) (s : State) : State := s.respond (.transportFailure e)

/-- Accept a request in IDLE: latch it with its operands and enter its first phase (R24, R25). -/
def State.accept (r : Request) (first : Phase) (s : State) : State :=
  { s with req := some r, phase := first }

/-- `dc <- L` (R12, R22). It cannot fail (R28). -/
def State.driveSelect (l : Level) (s : State) : State := { s with dc := selectLineOf l }

/-- What the transport answers about the frame in transfer: the environment's queued answer, and where there is none the
free value (R27, R199). -/
def State.nextAnswer (s : State) : TransportAnswer :=
  match s.answers with
  | a :: _ => a
  | [] => Config.transportAnswer s.draws

/-- The transport has been consulted once. -/
def State.consulted (s : State) : State := { s with answers := s.answers.tail, draws := s.draws + 1 }

/-- Append a frame to the trace (R27). -/
def State.record (f : Frame) (s : State) : State := { s with trace := s.trace ++ [f] }

/-- The phase after a frame with outcome `Ok`: the fourth column of R24's table (R103, R107, R128 to R131). -/
def Phase.onOk : Phase → Phase
  | .idle => .idle
  | .fCmd => .idle
  | .fData => .idle
  | .wCasetC => .wCasetD
  | .wCasetD => .wRasetC
  | .wRasetC => .wRasetD
  | .wRasetD => .wRamwrC
  | .wRamwrC => .idle

/-- After a frame with outcome `Ok`: the next phase, or the response `Ok` where the table goes to IDLE (R24). -/
def State.advance (s : State) : State :=
  if s.phase.onOk = .idle then s.respond .ok else { s with phase := s.phase.onOk }

/-- `emit(L, bytes)` with what follows it in every pseudocode (R12, R27, R101, R105, R121): drive the select line, let
the transport carry the bytes, then by its answer. An outcome appends the frame; `Ok` advances the phase and `Err(e)`
ends the request with `TransportFailure(e)` (R109, R132). No answer leaves the block in the frame's phase (R199). -/
def State.emit (l : Level) (bytes : List Byte) (s : State) : State :=
  match s.nextAnswer with
  | .pending => (s.driveSelect l).consulted
  | .ok => ((s.driveSelect l).consulted.record ⟨l, bytes, .ok⟩).advance
  | .err e => ((s.driveSelect l).consulted.record ⟨l, bytes, .err e⟩).raiseTransportFailure e

/-- What the block runs next. -/
inductive Fetched where
  /-- An instruction, in the state after its bytes, if it has any there, have left the port. -/
  | run (i : Instr) (s : State)
  /-- IDLE, and the host presents no request. -/
  | waiting
  /-- Nothing can run. -/
  | stopped (f : Fault)
  deriving DecidableEq, Repr

/-- In IDLE, the request at the head of the port (R30, R221). In a framer phase, the latched request. In a sequencer
phase, the emitted-frame row of that phase (R24, R127). -/
def State.fetch (s : State) : Fetched :=
  match s.phase with
  | .idle =>
    match decodeRequest s.port with
    | .instr i rest => .run i { s with port := rest }
    | .rejected .noBytes => .waiting
    | .rejected .truncated => .stopped .truncatedRequest
    | .rejected .notSequencerFrame => .stopped .truncatedRequest
  | .fCmd => match s.req with
    | some r => .run r.instr s
    | none => .stopped .phaseWithoutRequest
  | .fData => match s.req with
    | some r => .run r.instr s
    | none => .stopped .phaseWithoutRequest
  | .wCasetC => .run .casetFrame s
  | .wCasetD => .run .casetFrame s
  | .wRasetC => .run .rasetFrame s
  | .wRasetD => .run .rasetFrame s
  | .wRamwrC => .run .ramwrFrame s

/-- A window request that is latched stays; otherwise the smallest valid one is latched, since a sequencer phase has a
window request (R25). -/
def State.windowLatched (s : State) : Option Request :=
  match s.req with
  | some (.setWindow x y w h) => some (.setWindow x y w h)
  | _ => some (.setWindow 0 0 0 0)

/-- Place a table word where the block takes its next instruction from: an emitted-frame row by selecting its phase, a
request by putting its bytes at the head of the port of an idle block. notes/assumptions/12.md. -/
def State.placeTableWord (nbits w : Nat) (s : State) : State :=
  match decodeFrameWord nbits w with
  | some .casetFrame => { s with phase := .wCasetC, req := s.windowLatched }
  | some .rasetFrame => { s with phase := .wRasetC, req := s.windowLatched }
  | some .ramwrFrame => { s with phase := .wRamwrC, req := s.windowLatched }
  | _ => { s with phase := .idle, req := none, port := requestOfWord nbits w ++ s.port }

end Sys2Proof.Machine
end

