-- ==== Sys2Proof/Machine/Framer.lean ====
section
/-! DEFINITION. The protocol framer's requests CMD and DATA (spec/40_protocol_framer.md). Each is executed twice: in IDLE
it is accepted, and in its own phase it emits its frame. -/

namespace Sys2Proof.Machine

/-- CMD (R101, R103). In IDLE: latch the request and enter F_CMD. In F_CMD: the one command frame, `dc <- Command` before
it (R102). In any other phase another request runs (R30). -/
def execCmd (c : Byte) (s : State) : Host.Outcome State Fault Refusal :=
  match s.phase with
  | .idle => .next (s.accept (.cmd c) .fCmd)
  | .fCmd => if s.req = some (.cmd c) then .next (s.emit .command [c]) else .refused .overlappingRequest
  | .fData => .refused .overlappingRequest
  | .wCasetC => .refused .overlappingRequest
  | .wCasetD => .refused .overlappingRequest
  | .wRasetC => .refused .overlappingRequest
  | .wRasetD => .refused .overlappingRequest
  | .wRamwrC => .refused .overlappingRequest

/-- DATA (R105, R107). In IDLE: an empty payload is answered `Ok` at once, with no frame and `dc` unchanged (R106); any
other is latched, read whole at acceptance (R52), and F_DATA entered. In F_DATA: the one data frame with the payload's
bytes in index order (R54), never an empty one (R57). In any other phase another request runs (R30). -/
def execData (payload : List Byte) (s : State) : Host.Outcome State Fault Refusal :=
  match s.phase with
  | .idle => if payload = [] then .next (s.respond .ok) else .next (s.accept (.data payload) .fData)
  | .fData =>
    if s.req = some (.data payload) ∧ payload ≠ [] then .next (s.emit .data payload)
    else .refused .overlappingRequest
  | .fCmd => .refused .overlappingRequest
  | .wCasetC => .refused .overlappingRequest
  | .wCasetD => .refused .overlappingRequest
  | .wRasetC => .refused .overlappingRequest
  | .wRasetD => .refused .overlappingRequest
  | .wRamwrC => .refused .overlappingRequest

end Sys2Proof.Machine
end

