-- ==== Sys2Proof/Machine/Reserved.lean ====
section
/-! DEFINITION. A request with a reserved header (spec/30_encoding.md R76). -/

namespace Sys2Proof.Machine

/-- RESERVED (R76): in IDLE the response is `InvalidArgument`, with no frame and `dc` unchanged; the header byte has left
the port when the request was fetched. In any other phase another request runs (R30). -/
def execReserved (_op : Byte) (s : State) : Host.Outcome State Fault Refusal :=
  match s.phase with
  | .idle => .next s.raiseInvalidArgument
  | .fCmd => .refused .overlappingRequest
  | .fData => .refused .overlappingRequest
  | .wCasetC => .refused .overlappingRequest
  | .wCasetD => .refused .overlappingRequest
  | .wRasetC => .refused .overlappingRequest
  | .wRasetD => .refused .overlappingRequest
  | .wRamwrC => .refused .overlappingRequest

end Sys2Proof.Machine
end

