-- ==== Sys2Proof/Machine/WindowSequencer.lean ====
section
/-! DEFINITION. The window sequencer: the request SET_WINDOW and the frames its phases emit
(spec/41_window_sequencer.md). -/

namespace Sys2Proof.Machine

/-- SET_WINDOW (R121). In IDLE: an invalid rectangle is answered `InvalidArgument` with no frame and `dc` unchanged
(R122, R123); a valid one is latched and W_CASET_C entered (R126). The five frames are the meanings below, which the
block runs phase by phase. In any other phase another request runs (R30). -/
def execSetWindow (x y w h : Half) (s : State) : Host.Outcome State Fault Refusal :=
  match s.phase with
  | .idle =>
    if windowValid s.params x y w h then .next (s.accept (.setWindow x y w h) .wCasetC)
    else .next s.raiseInvalidArgument
  | .fCmd => .refused .overlappingRequest
  | .fData => .refused .overlappingRequest
  | .wCasetC => .refused .overlappingRequest
  | .wCasetD => .refused .overlappingRequest
  | .wRasetC => .refused .overlappingRequest
  | .wRasetD => .refused .overlappingRequest
  | .wRamwrC => .refused .overlappingRequest

/-- CASET_FRAME (R127, R128, R129). In W_CASET_C: the column-address-set command frame. In W_CASET_D: its payload frame,
the column bounds of the latched request (R124). -/
def execCasetFrame (s : State) : Host.Outcome State Fault Refusal :=
  match s.phase, s.req with
  | .wCasetC, some (.setWindow _ _ _ _) => .next (s.emit .command [s.params.cmdCaset])
  | .wCasetD, some (.setWindow x _ w _) => .next (s.emit .data (boundPayload x w))
  | _, _ => .refused .frameOutsideItsPhase

/-- RASET_FRAME (R127, R130). In W_RASET_C: the row-address-set command frame. In W_RASET_D: its payload frame, the row
bounds of the latched request (R124). -/
def execRasetFrame (s : State) : Host.Outcome State Fault Refusal :=
  match s.phase, s.req with
  | .wRasetC, some (.setWindow _ _ _ _) => .next (s.emit .command [s.params.cmdRaset])
  | .wRasetD, some (.setWindow _ y _ h) => .next (s.emit .data (boundPayload y h))
  | _, _ => .refused .frameOutsideItsPhase

/-- RAMWR_FRAME (R127, R131). In W_RAMWR_C: the memory-write command frame, with no payload; an outcome `Ok` ends the
request with `Ok`. -/
def execRamwrFrame (s : State) : Host.Outcome State Fault Refusal :=
  match s.phase, s.req with
  | .wRamwrC, some (.setWindow _ _ _ _) => .next (s.emit .command [s.params.cmdRamwr])
  | _, _ => .refused .frameOutsideItsPhase

end Sys2Proof.Machine
end

