-- ==== Sys2Proof/Machine/Dispatch.lean ====
section
/-! DEFINITION. One arm for each instruction. -/

namespace Sys2Proof.Machine

def exec (i : Instr) (s : State) : Host.Outcome State Fault Refusal :=
  match i with
  | .cmd c => Sys2Proof.Machine.execCmd c s
  | .data payload => Sys2Proof.Machine.execData payload s
  | .setWindow x y w h => Sys2Proof.Machine.execSetWindow x y w h s
  | .reserved op => Sys2Proof.Machine.execReserved op s
  | .casetFrame => Sys2Proof.Machine.execCasetFrame s
  | .rasetFrame => Sys2Proof.Machine.execRasetFrame s
  | .ramwrFrame => Sys2Proof.Machine.execRamwrFrame s

end Sys2Proof.Machine
end

