-- ==== Sys2Proof/Machine/Step.lean ====
section
/-! DEFINITION. One step of the block: the acceptance of a request, or one frame (spec/10_state.md R24). -/

namespace Sys2Proof.Machine

/-- One step: what `State.fetch` finds is executed. An idle block to which the host presents nothing stays as it is
(R24, R232; notes/assumptions/3.md). -/
def step (s : State) : Host.Outcome State Fault Refusal :=
  match s.fetch with
  | .run i t => exec i t
  | .waiting => .next s
  | .stopped f => .fault f

/-- The state in which the next step runs a table word's instruction. notes/assumptions/12.md. -/
def State.withFetchWord (s : State) (nbits w : Nat) : State := s.placeTableWord nbits w

end Sys2Proof.Machine
end

