-- ==== Sys2Proof/Machine/Assembler.lean ====
section
/-! DEFINITION. The spec's notation for requests and frames (spec/30_encoding.md R82), as lines with their meaning and as
text. -/

namespace Sys2Proof.Machine

/-- A line of the notation (R82). -/
inductive AsmLine where
  /-- `CMD <byte>` -/
  | cmd (c : Byte)
  /-- `DATA [<byte>, ...]` -/
  | data (payload : List Byte)
  /-- `DATA <n> x [<byte>, ...]` -/
  | dataRepeat (n : Nat) (unit : List Byte)
  /-- `WIN <x>, <y>, <w>, <h>` -/
  | win (x y w h : Half)
  deriving DecidableEq, Repr

/-- The request a line stands for (R82). -/
def AsmLine.assemble : AsmLine → Request
  | .cmd c => .cmd c
  | .data payload => .data payload
  | .dataRepeat n unit => .data (List.replicate n unit).flatten
  | .win x y w h => .setWindow x y w h

/-- A hexadecimal digit as the spec writes it. -/
def hexDigit (n : Nat) : Char :=
  match n with
  | 0 => '0' | 1 => '1' | 2 => '2' | 3 => '3' | 4 => '4' | 5 => '5' | 6 => '6' | 7 => '7'
  | 8 => '8' | 9 => '9' | 10 => 'A' | 11 => 'B' | 12 => 'C' | 13 => 'D' | 14 => 'E' | _ => 'F'

/-- A byte as two hexadecimal digits. -/
def hexByte (b : Byte) : List Char := [hexDigit (b.toNat / 16), hexDigit (b.toNat % 16)]

/-- A frame in the spec's notation: `C:<byte>` or `D:<byte> <byte> ...`, then ` ok` or ` !e` (R82). -/
def Frame.text (f : Frame) : List Char :=
  (match f.level with
    | .command => ['C', ':']
    | .data => ['D', ':'])
  ++ [' '].intercalate (f.bytes.map hexByte)
  ++ match f.outcome with
    | .ok => [' ', 'o', 'k']
    | .err _ => [' ', '!', 'e']

end Sys2Proof.Machine
end

