-- ==== Sys2Proof/Machine/Color.lean ====
section
/-! DEFINITION. The host's color model and pixel words (spec/42_host_sequences.md R152, R153). -/

namespace Sys2Proof.Machine

/-- A color of three 8-bit channels (R152). -/
structure Color where
  r : Byte
  g : Byte
  b : Byte
  deriving DecidableEq, Repr

/-- The host's pixel modes (R152, R153). -/
inductive ColorMode where
  | bits12
  | bits16
  | bits18
  deriving DecidableEq, Repr

/-- Black, the default color (R164). -/
def Color.black : Color := ⟨0, 0, 0⟩

/-- `scaled_N(c) = floor((2*c*(2^N - 1) + 255) / 510)` (R152). -/
def scaled (n : Nat) (c : Byte) : Nat := (2 * c.toNat * (2 ^ n - 1) + 255) / 510

/-- `P12` (R152): red in the most significant field. -/
def Color.pack12 (c : Color) : BitVec 12 :=
  BitVec.ofNat 12 (scaled 4 c.r <<< 8 ||| scaled 4 c.g <<< 4 ||| scaled 4 c.b)

/-- `P16` (R152). -/
def Color.pack16 (c : Color) : BitVec 16 :=
  BitVec.ofNat 16 (scaled 5 c.r <<< 11 ||| scaled 6 c.g <<< 5 ||| scaled 5 c.b)

/-- `P18` (R152). -/
def Color.pack18 (c : Color) : BitVec 18 :=
  BitVec.ofNat 18 (scaled 6 c.r <<< 12 ||| scaled 6 c.g <<< 6 ||| scaled 6 c.b)

/-- The payload bytes of one 16-bit pixel word, high byte first (R153). -/
def wordBytes (word : BitVec 16) : List Byte := bytesOfHalf word

/-- The payload of a stream of pixel words, in order (R153). -/
def streamBytes (words : List (BitVec 16)) : List Byte := words.flatMap wordBytes

end Sys2Proof.Machine
end

