-- ==== Sys2Proof/Machine/HostOps.lean ====
section
/-! DEFINITION. The host's operations as plans of requests (spec/30_encoding.md R83, spec/42_host_sequences.md). They are
outside the block (spec/00_scope.md R6) and the block's meanings do not use them. -/

namespace Sys2Proof.Machine

/-- The host's operations (R83, R155 to R176). -/
inductive HostOp where
  | fill (color : Color)
  | clear
  | setPixel (x y : Half) (color : Color)
  | fillRect (x y w h : Half) (color : Color)
  | drawHline (x y w : Half) (color : Color)
  | drawVline (x y h : Half) (color : Color)
  | drawRect (x y w h : Half) (color : Color)
  /-- `pixels` is none for the absent buffer (R162). -/
  | drawBitmap (x y w h : Half) (pixels : Option (List (BitVec 16)))
  | drawLine (x0 y0 x1 y1 : Half) (color : Color)
  | displayOn
  | displayOff
  | invert (on : Bool)
  | softReset
  | setRotation (r : Byte)
  | hardReset
  | init
  deriving DecidableEq, Repr

/-- The levels R171 names for the reset line. Which of them are electrically one is not in the source.
notes/assumptions/21.md. -/
inductive ResetLevel where
  | active
  | inactive
  | high
  deriving DecidableEq, Repr

/-- The states of the Initialization Sequencer (R172). -/
inductive InitState where
  | unreset
  | hardResetting
  | softResetting
  | replaying
  | ready
  deriving DecidableEq, Repr

/-- One thing a host operation does. -/
inductive HostAction where
  /-- Issue a request to the block and await its response (R170). -/
  | request (r : Request)
  /-- `set_reset_line`, on the transport directly; it cannot fail and emits no frame (R171). -/
  | setResetLine (l : ResetLevel)
  /-- Wait at least this many milliseconds (R167, R171, R175). -/
  | wait (ms : Nat)
  /-- The Initialization Sequencer goes to this state (R172). -/
  | enter (target : InitState)
  deriving DecidableEq, Repr

/-- Why an operation has no plan. -/
inductive HostRefusal where
  /-- `draw_line` is unsupported (R163). -/
  | lineDrawingUnsupported
  /-- The byte layout of 12-bit and 18-bit words is not in the source (R153). -/
  | colorModeUnsupported
  /-- The pixel array does not hold `w*h` words, which R162 says it does. notes/assumptions/19.md. -/
  | bitmapSizeMismatch
  /-- A DATA payload is longer than `MAX_DATA_LEN`: no request carries it (R74). notes/assumptions/27.md. -/
  | payloadTooLong
  deriving DecidableEq, Repr

/-- What an operation does: a sequence of actions, or `InvalidArgument` with no request (R150), or no meaning. -/
inductive HostPlan where
  | actions (as : List HostAction)
  | invalidArgument
  | refused (why : HostRefusal)
  deriving DecidableEq, Repr

/-- How a pixel stream is carried: the lengths, less one, of its leading DATA payloads (the last takes what is left), and
whether a stream of zero words issues one empty DATA or none (R154, R169). Every split has such a choice.
notes/assumptions/18.md. -/
structure StreamChoice where
  cuts      : List Nat
  emptyData : Bool
  deriving DecidableEq, Repr

/-- The choice of every example of the spec: one DATA request per stream (R154). -/
def StreamChoice.single : StreamChoice := ⟨[], false⟩

/-- A stream cut into non-empty payloads, in order (R154). -/
def splitStream : List Nat → List Byte → List (List Byte)
  | _, [] => []
  | [], b :: bs => [b :: bs]
  | n :: ns, b :: bs => (b :: bs.take n) :: splitStream ns (bs.drop n)

/-- The DATA requests of a stream (R154, R169). -/
def streamActions (choice : StreamChoice) (bytes : List Byte) : List HostAction :=
  match bytes with
  | [] => if choice.emptyData then [.request (.data [])] else []
  | b :: bs => (splitStream choice.cuts (b :: bs)).map fun payload => .request (.data payload)

/-- The origin check (R155 step 1): the origin lies in the panel. -/
def originInside (p : Params) (x y : Half) : Bool := decide (x.toNat < p.panelWidth ∧ y.toNat < p.panelHeight)

/-- The clip (R155 step 2), in exact integers: `min(extent, limit - origin)`. -/
def clip (limit : Nat) (origin extent : Half) : Half := BitVec.ofNat 16 (min extent.toNat (limit - origin.toNat))

/-- A window and its pixel stream (R155 step 3). -/
def windowActions (choice : StreamChoice) (x y w h : Half) (words : List (BitVec 16)) : List HostAction :=
  .request (.setWindow x y w h) :: streamActions choice (streamBytes words)

/-- A clipped rectangle of one color: its window, then exactly `w'*h'` words (R155, R158). -/
def rectActions (p : Params) (choice : StreamChoice) (x y w h : Half) (word : BitVec 16) : List HostAction :=
  windowActions choice x y (clip p.panelWidth x w) (clip p.panelHeight y h)
    (List.replicate ((clip p.panelWidth x w).toNat * (clip p.panelHeight y h).toNat) word)

/-- `fill` (R156): the whole panel in one color. -/
def fillActions (p : Params) (choice : StreamChoice) (word : BitVec 16) : List HostAction :=
  windowActions choice 0 0 (BitVec.ofNat 16 p.panelWidth) (BitVec.ofNat 16 p.panelHeight)
    (List.replicate (p.panelWidth * p.panelHeight) word)

/-- `draw_rect` (R161) after the origin check: no request for a clipped extent of zero; otherwise the top, bottom, left
and right edges of the clipped rectangle, one window each. -/
def outlineActions (p : Params) (choice : Nat → StreamChoice) (x y w h : Half) (word : BitVec 16) : List HostAction :=
  if clip p.panelWidth x w = 0 ∨ clip p.panelHeight y h = 0 then []
  else
    rectActions p (choice 0) x y (clip p.panelWidth x w) 1 word
    ++ rectActions p (choice 1) x (y + clip p.panelHeight y h - 1) (clip p.panelWidth x w) 1 word
    ++ rectActions p (choice 2) x y 1 (clip p.panelHeight y h) word
    ++ rectActions p (choice 3) (x + clip p.panelWidth x w - 1) y 1 (clip p.panelHeight y h) word

/-- The words of a clipped bitmap: of each of the first `h'` rows of `w` words, the first `w'` (R162). -/
def clippedBitmap (w w' : Nat) : Nat → List (BitVec 16) → List (BitVec 16)
  | 0, _ => []
  | rows + 1, pixels => pixels.take w' ++ clippedBitmap w w' rows (pixels.drop w)

/-- `draw_bitmap` (R162) after its checks. -/
def bitmapActions (p : Params) (choice : StreamChoice) (x y w h : Half) (pixels : List (BitVec 16)) : List HostAction :=
  windowActions choice x y (clip p.panelWidth x w) (clip p.panelHeight y h)
    (clippedBitmap w.toNat (clip p.panelWidth x w).toNat (clip p.panelHeight y h).toNat pixels)

/-- `hard_reset` (R171): the three-phase pulse. On its own, outside `init`, it leaves the Initialization Sequencer's state
as it was, which the spec does not say: DESIGN CHOICE, notes/assumptions/28.md. -/
def hardResetActions (hp : HostParams) : List HostAction :=
  [.setResetLine .active, .wait hp.tReset, .setResetLine .inactive, .wait hp.tReset, .setResetLine .high]

/-- `soft_reset` (R167). On its own, outside `init`, it leaves the Initialization Sequencer's state as it was, which the
spec does not say: DESIGN CHOICE, notes/assumptions/28.md. -/
def softResetActions (hp : HostParams) : List HostAction := [.request (.cmd hp.cmdSwreset), .wait hp.tSwreset]

/-- One entry of the table replay (R175). -/
def descriptorActions (hp : HostParams) (d : Descriptor) : List HostAction :=
  [.request (.cmd d.command), .request (.data d.payload), .wait hp.tInitStep]

/-- The access-control byte of a rotation: `ROTATION_TABLE[r mod 8] | BGR_FLAG` (R168). -/
def rotationByte (hp : HostParams) (r : Byte) : Byte :=
  hp.rotationTable[r.toNat % 8]'(Nat.mod_lt _ (by decide)) ||| hp.bgrFlag

/-- `init` (R172 to R176). A state of the Initialization Sequencer is entered before the actions of its transition, Ready
after all of them; so a failed `init` leaves the state in which it failed, and an `init` begun in any state goes to
HardResetting. The spec gives neither: DESIGN CHOICE, notes/assumptions/28.md. -/
def initActions (hp : HostParams) (p : Params) (choice : StreamChoice) : List HostAction :=
  [.enter .hardResetting] ++ hardResetActions hp
  ++ [.enter .softResetting] ++ softResetActions hp
  ++ [.enter .replaying] ++ hp.initTable.flatMap (descriptorActions hp)
  ++ fillActions p choice Color.black.pack16 ++ [.enter .ready]

/-- A host operation's plan in the host's mode: only 16-bit words have a byte layout, and operations in the other modes
are refused (R153, D21). -/
def inMode (mode : ColorMode) (plan : HostPlan) : HostPlan :=
  match mode with
  | .bits16 => plan
  | .bits12 => .refused .colorModeUnsupported
  | .bits18 => .refused .colorModeUnsupported

/-- A rectangle primitive after its origin check (R155 step 1). -/
def fromOrigin (p : Params) (x y : Half) (as : List HostAction) : HostPlan :=
  if originInside p x y then .actions as else .invalidArgument

/-- `draw_bitmap`'s checks (R162): an absent buffer or an origin outside the panel is `InvalidArgument`. -/
def bitmapPlan (p : Params) (choice : StreamChoice) (x y w h : Half) : Option (List (BitVec 16)) → HostPlan
  | none => .invalidArgument
  | some pixels =>
    if originInside p x y then
      if pixels.length = w.toNat * h.toNat then .actions (bitmapActions p choice x y w h pixels)
      else .refused .bitmapSizeMismatch
    else .invalidArgument

/-- What every host operation expands to, in 16-bit mode. `choice n` is how its `n`-th pixel stream is carried. -/
def HostOp.expansion (hp : HostParams) (p : Params) (choice : Nat → StreamChoice) : HostOp → HostPlan
  | .fill color => .actions (fillActions p (choice 0) color.pack16)
  | .clear => .actions (fillActions p (choice 0) Color.black.pack16)
  | .setPixel x y color => fromOrigin p x y (windowActions (choice 0) x y 1 1 [color.pack16])
  | .fillRect x y w h color => fromOrigin p x y (rectActions p (choice 0) x y w h color.pack16)
  | .drawHline x y w color => fromOrigin p x y (rectActions p (choice 0) x y w 1 color.pack16)
  | .drawVline x y h color => fromOrigin p x y (rectActions p (choice 0) x y 1 h color.pack16)
  | .drawRect x y w h color => fromOrigin p x y (outlineActions p choice x y w h color.pack16)
  | .drawBitmap x y w h pixels => bitmapPlan p (choice 0) x y w h pixels
  | .drawLine _ _ _ _ _ => .refused .lineDrawingUnsupported
  | .displayOn => .actions [.request (.cmd hp.cmdDispon)]
  | .displayOff => .actions [.request (.cmd hp.cmdDispoff)]
  | .invert on => .actions [.request (.cmd (if on then hp.cmdInvon else hp.cmdInvoff))]
  | .softReset => .actions (softResetActions hp)
  | .setRotation r => .actions [.request (.cmd hp.cmdMadctl), .request (.data [rotationByte hp r])]
  | .hardReset => .actions (hardResetActions hp)
  | .init => .actions (initActions hp p (choice 0))

/-- The plan of every host operation (R83, R153). -/
def HostOp.plan (hp : HostParams) (p : Params) (mode : ColorMode) (choice : Nat → StreamChoice) (op : HostOp) :
    HostPlan :=
  inMode mode (op.expansion hp p choice)

end Sys2Proof.Machine
end

