-- ==== Sys2Proof/Machine/Driver.lean ====
section
/-! DEFINITION. The host's driver over the block: it issues a plan's requests to the block's `step`, one after another
(spec/42_host_sequences.md R150, R170 to R177). Outside the block; the block's meanings do not use it. -/

namespace Sys2Proof.Machine

/-- What the driver did outside the block. -/
inductive HostEvent where
  | resetLine (l : ResetLevel)
  | waited (ms : Nat)
  deriving DecidableEq, Repr

/-- The driver's state: the block, the Initialization Sequencer's state (R172), and what went to the reset line or was
waited for, oldest first. -/
structure Driver where
  block     : State
  initState : InitState
  events    : List HostEvent
  deriving DecidableEq, Repr

/-- How an operation ends. -/
inductive HostResult where
  /-- The three-way result (R150). -/
  | returned (r : Response)
  /-- The transport has not answered within the driver's patience; the block is still in a frame's phase (R199). -/
  | blocked
  /-- The operation has no meaning (R153, R163), or from here on none (notes/assumptions/27.md). -/
  | refused (why : HostRefusal)
  deriving DecidableEq, Repr

/-- At most `patience` steps of the block, ending where it is back in IDLE (R30) or cannot go on. -/
def serve : Nat → State → State
  | 0, s => s
  | n + 1, s =>
    match step s with
    | .next t => if t.phase = .idle then t else serve n t
    | .fault _ => s
    | .refused _ => s

/-- The block with one request presented on its empty port. A payload longer than `MAX_DATA_LEN` has no encoding (R74), so
the driver presents well-formed requests only. DESIGN CHOICE, notes/assumptions/27.md. -/
def State.present (r : Request) (s : State) : State := { s with port := encode s.params r.instr }

/-- Present one request and await its response (R30, R170): the response it added, if it gave one. While an earlier
request runs or waits on the port, the host presents nothing, nor does it present a payload that no request carries
(notes/assumptions/27.md). -/
def Driver.issue (patience : Nat) (r : Request) (d : Driver) : Option Response × Driver :=
  if r.instr.wf = true ∧ d.block.phase = .idle ∧ d.block.port = [] then
    ((serve patience (d.block.present r)).responses[d.block.responses.length]?,
      { d with block := serve patience (d.block.present r) })
  else (none, d)

/-- The actions in order; the first response that is not `Ok` ends the operation with it, and no later action is
performed (R155 step 4, R170). A payload too long for a request ends it as refused (notes/assumptions/27.md). The
Initialization Sequencer's state is where the actions performed have left it, on a failure too
(notes/assumptions/28.md). -/
def Driver.perform (patience : Nat) : List HostAction → Driver → HostResult × Driver
  | [], d => (.returned .ok, d)
  | .request r :: as, d =>
    match d.issue patience r with
    | (some .ok, d') => Driver.perform patience as d'
    | (some resp, d') => (.returned resp, d')
    | (none, d') => (if r.instr.wf = true then .blocked else .refused .payloadTooLong, d')
  | .setResetLine l :: as, d => Driver.perform patience as { d with events := d.events ++ [.resetLine l] }
  | .wait ms :: as, d => Driver.perform patience as { d with events := d.events ++ [.waited ms] }
  | .enter target :: as, d => Driver.perform patience as { d with initState := target }

/-- A host operation (R150): its plan performed. -/
def HostOp.run (patience : Nat) (hp : HostParams) (mode : ColorMode) (choice : Nat → StreamChoice) (op : HostOp)
    (d : Driver) : HostResult × Driver :=
  match op.plan hp d.block.params mode choice with
  | .actions as => d.perform patience as
  | .invalidArgument => (.returned .invalidArgument, d)
  | .refused why => (.refused why, d)

/-- The requests of a list of actions, in order. -/
def requestsOf : List HostAction → List Request
  | [] => []
  | .request r :: as => r :: requestsOf as
  | .setResetLine _ :: as => requestsOf as
  | .wait _ :: as => requestsOf as
  | .enter _ :: as => requestsOf as

/-- Whether a request is a SET_WINDOW. -/
def Request.isWindow : Request → Bool
  | .cmd _ => false
  | .data _ => false
  | .setWindow _ _ _ _ => true

/-- The windows a list of actions programs, in order. -/
def windowsOf (as : List HostAction) : List Request := (requestsOf as).filter Request.isWindow

/-- The driver when the block is created: nothing has been issued (R172, R220). -/
def Driver.start : Driver := ⟨State.reset, .unreset, []⟩

end Sys2Proof.Machine
end

