-- ==== Sys2Proof/Machine/Sequence.lean ====
section
/-! DEFINITION. What a whole request puts on the bus and answers, said at once instead of phase by phase
(spec/30_encoding.md R79, spec/41_window_sequencer.md R132, R137, spec/60_exceptions.md R191), and the pixel stream of a
trace (spec/10_state.md R33). The machine does not use these; statements compare it with them. -/

namespace Sys2Proof.Machine

/-- A frame before its outcome is known: its level and its bytes. -/
abbrev FrameBody := Level × List Byte

/-- The five frames of a valid SET_WINDOW, in their order (R79). -/
def windowFrames (p : Params) (x y w h : Half) : List FrameBody :=
  [(.command, [p.cmdCaset]),
   (.data, [hi8 x, lo8 x, hi8 (x + w - 1), lo8 (x + w - 1)]),
   (.command, [p.cmdRaset]),
   (.data, [hi8 y, lo8 y, hi8 (y + h - 1), lo8 (y + h - 1)]),
   (.command, [p.cmdRamwr])]

/-- The frames a request emits when none fails (R78, R79, R107, R123). -/
def requestFrames (p : Params) : Instr → List FrameBody
  | .cmd c => [(.command, [c])]
  | .data payload => if payload = [] then [] else [(.data, payload)]
  | .setWindow x y w h => if windowValid p x y w h then windowFrames p x y w h else []
  | .reserved _ => []
  | .casetFrame => []
  | .rasetFrame => []
  | .ramwrFrame => []

/-- The response a request gives when no frame of it fails (R191). -/
def requestVerdict (p : Params) : Instr → Response
  | .setWindow x y w h => if windowValid p x y w h then .ok else .invalidArgument
  | .reserved _ => .invalidArgument
  | .cmd _ => .ok
  | .data _ => .ok
  | .casetFrame => .ok
  | .rasetFrame => .ok
  | .ramwrFrame => .ok

/-- Frames carried one after another with the given outcomes: up to and including the first failed one, which decides
the response (R132, R137, R194); `verdict` where none fails. None where the outcomes run out. -/
def play (verdict : Response) : List FrameBody → List FrameOutcome → Option (List Frame × Response)
  | [], _ => some ([], verdict)
  | _ :: _, [] => none
  | b :: _, .err e :: _ => some ([⟨b.1, b.2, .err e⟩], .transportFailure e)
  | b :: bs, .ok :: os => (play verdict bs os).map fun r => (⟨b.1, b.2, .ok⟩ :: r.1, r.2)

/-- What a request appends to the trace and answers, for the outcomes the transport gives. -/
def requestResult (p : Params) (i : Instr) (outcomes : List FrameOutcome) : Option (List Frame × Response) :=
  play (requestVerdict p i) (requestFrames p i) outcomes

/-- What a list of requests appends to the trace and answers, one request after another (R61, R232): each takes the
outcomes its frames need and leaves the rest to the next. -/
def requestsResult (p : Params) : List Instr → List FrameOutcome → Option (List Frame × List Response)
  | [], _ => some ([], [])
  | i :: is, os =>
    match requestResult p i os with
    | none => none
    | some (frames, r) =>
      (requestsResult p is (os.drop frames.length)).map fun rest => (frames ++ rest.1, r :: rest.2)

/-- The transport's answer that reports an outcome. -/
def FrameOutcome.answer : FrameOutcome → TransportAnswer
  | .ok => .ok
  | .err e => .err e

/-- The select line after frames: the last frame's level (R22), or what it was. -/
def selectLineAfter (before : SelectLine) (frames : List Frame) : SelectLine :=
  match frames.getLast? with
  | none => before
  | some f => match f.level with
    | .command => .command
    | .data => .data

/-- The pixel stream of the SET_WINDOW whose memory-write frame stands at index `n` of the trace: the maximal run of data
frames after it, before the next command frame (R33). -/
def pixelStream (trace : List Frame) (n : Nat) : List Frame :=
  (trace.drop (n + 1)).takeWhile fun f => decide (f.level = .data)

/-- The bytes of a pixel stream, in order. -/
def pixelBytes (trace : List Frame) (n : Nat) : List Byte := (pixelStream trace n).flatMap Frame.bytes

end Sys2Proof.Machine
end

