-- ==== Sys2Proof/Safety.lean ====
section
/-! DEFINITION. What a good state of the block is, and what ends a run: the terms claims use. -/

namespace Sys2Proof.Machine

/-- The level of the frame a phase emits (R24, R127); none in IDLE. -/
def Phase.level? : Phase → Option Level
  | .idle => none
  | .fCmd => some .command
  | .fData => some .data
  | .wCasetC => some .command
  | .wCasetD => some .data
  | .wRasetC => some .command
  | .wRasetD => some .data
  | .wRamwrC => some .command

/-- How many frames of its request the block has emitted when it is in a phase (R126). -/
def Phase.framesBefore : Phase → Nat
  | .idle => 0
  | .fCmd => 0
  | .fData => 0
  | .wCasetC => 0
  | .wCasetD => 1
  | .wRasetC => 2
  | .wRasetD => 3
  | .wRamwrC => 4

/-- `phase` and `req` belong together (R24, R25): no request in IDLE, a command in F_CMD, a non-empty payload in F_DATA,
a valid window in the sequencer's phases. -/
def phaseAgrees (p : Params) : Phase → Option Request → Bool
  | .idle, none => true
  | .fCmd, some (.cmd _) => true
  | .fData, some (.data payload) => !payload.isEmpty
  | .wCasetC, some (.setWindow x y w h) => windowValid p x y w h
  | .wCasetD, some (.setWindow x y w h) => windowValid p x y w h
  | .wRasetC, some (.setWindow x y w h) => windowValid p x y w h
  | .wRasetD, some (.setWindow x y w h) => windowValid p x y w h
  | .wRamwrC, some (.setWindow x y w h) => windowValid p x y w h
  | _, _ => false

/-- The frame a phase emits for the latched request: its level and bytes (R24, R127). -/
def phaseFrame (p : Params) : Phase → Option Request → Option FrameBody
  | .fCmd, some (.cmd c) => some (.command, [c])
  | .fData, some (.data payload) => if payload = [] then none else some (.data, payload)
  | .wCasetC, some (.setWindow _ _ _ _) => some (.command, [p.cmdCaset])
  | .wCasetD, some (.setWindow x _ w _) => some (.data, boundPayload x w)
  | .wRasetC, some (.setWindow _ _ _ _) => some (.command, [p.cmdRaset])
  | .wRasetD, some (.setWindow _ y _ h) => some (.data, boundPayload y h)
  | .wRamwrC, some (.setWindow _ _ _ _) => some (.command, [p.cmdRamwr])
  | _, _ => none

/-- A frame's width (R57, R78): one byte at the command level, at least one at the data level. -/
def Frame.widthOk (f : Frame) : Bool :=
  match f.level with
  | .command => decide (f.bytes.length = 1)
  | .data => decide (1 ≤ f.bytes.length)

/-- The frames of the request in progress that have already been emitted, all with outcome `Ok` (R126, R132). -/
def State.emittedSoFar (s : State) : List Frame :=
  match s.req with
  | none => []
  | some r => ((requestFrames s.params r.instr).take s.phase.framesBefore).map fun b => ⟨b.1, b.2, .ok⟩

/-- The errors of the failed frames of a trace, in order. -/
def frameErrors (trace : List Frame) : List TransportError :=
  trace.filterMap fun f => match f.outcome with
    | .ok => none
    | .err e => some e

/-- The errors of the failed requests among responses, in order. -/
def responseErrors (responses : List Response) : List TransportError :=
  responses.filterMap fun r => match r with
    | .ok => none
    | .invalidArgument => none
    | .transportFailure e => some e

/-- The invariant of the block. -/
structure State.Inv (s : State) : Prop where
  /-- The panel parameters are in range (R7). -/
  panel : s.params.panelFits = true
  /-- `phase` and `req` belong together (R24, R25). -/
  request : phaseAgrees s.params s.phase s.req = true
  /-- `dc` holds the level of the last frame, or of the frame in transfer; Unknown only before the first frame
  (R22, R23). -/
  line : s.dc = selectLineAfter .unknown s.trace ∨ s.phase.level?.map selectLineOf = some s.dc
  /-- Every frame has its format's width (R57, R78). -/
  widths : s.trace.all Frame.widthOk = true
  /-- The trace ends with what the request in progress has emitted (R126). -/
  progress : s.emittedSoFar <:+ s.trace
  /-- The failed requests are answered with the failed frames' errors, unchanged and in order (R109, R193). -/
  errors : responseErrors s.responses = frameErrors s.trace

/-- `n` steps, stopping at the first fault or refusal: the host's `Host.Core.run` of this machine, over its own types. -/
def runSteps : Nat → State → Host.Outcome State Fault Refusal
  | 0, s => .next s
  | n + 1, s =>
    match step s with
    | .next t => runSteps n t
    | .fault f => .fault f
    | .refused r => .refused r

/-- The end of a run (R232): the host has no further request and the block is in IDLE. -/
def State.finished (s : State) : Bool := decide (s.phase = .idle ∧ s.port = [])

/-- The port's bytes end inside a request (R77). -/
def State.truncated (s : State) : Bool := decide (s.phase = .idle ∧ decodeRequest s.port = .rejected .truncated)

end Sys2Proof.Machine
end

