-- ==== Sys2Proof/Certificates/Slice0/Obligations.lean ====
section
/-! DEFINITION. The statements for the provers, from the numbered rules of spec/. -/

namespace Sys2Proof.Machine

/-- Executing `i` at `s` carries one frame with the given level and bytes, and is otherwise exactly this, for each answer
of the transport. In all three cases `dc` holds the frame's level. No answer: the block stays in its phase (R199), in a
step of its own that puts no frame into the trace (DEDUCED, notes/assumptions/6.md). `Err e`:
the frame is recorded as failed, the response is `TransportFailure(e)` and the block is in IDLE (R109, R132). `Ok`: the
frame is recorded, and the block goes to the phase `after`, or for none to IDLE with the response `Ok` (R24). Nothing else
of the state changes. -/
def CarriesFrame (i : Instr) (s : State) (l : Level) (bytes : List Byte) (after : Option Phase) : Prop :=
  (s.nextAnswer = .pending →
    exec i s = .next { s with dc := selectLineOf l, answers := s.answers.tail, draws := s.draws + 1 }) ∧
  (∀ e, s.nextAnswer = .err e →
    exec i s = .next { s with
      dc := selectLineOf l, answers := s.answers.tail, draws := s.draws + 1, phase := .idle, req := none,
      trace := s.trace ++ [⟨l, bytes, .err e⟩], responses := s.responses ++ [.transportFailure e] }) ∧
  (∀ q, after = some q → s.nextAnswer = .ok →
    exec i s = .next { s with
      dc := selectLineOf l, answers := s.answers.tail, draws := s.draws + 1, phase := q,
      trace := s.trace ++ [⟨l, bytes, .ok⟩] }) ∧
  (after = none → s.nextAnswer = .ok →
    exec i s = .next { s with
      dc := selectLineOf l, answers := s.answers.tail, draws := s.draws + 1, phase := .idle, req := none,
      trace := s.trace ++ [⟨l, bytes, .ok⟩], responses := s.responses ++ [.ok] })

/-- The response to a one-frame request whose frame has this outcome (R101, R105). -/
def outcomeResponse : FrameOutcome → Response
  | .ok => .ok
  | .err e => .transportFailure e

/-- The state when requests have run to their responses: `frames` appended to the trace, one transport answer used for
each, `dc` at the last frame's level, the responses given, IDLE. -/
def afterRun (s : State) (rest : List Byte) (frames : List Frame) (responses : List Response) : State :=
  { s with
    dc := selectLineAfter s.dc frames, phase := .idle, req := none, trace := s.trace ++ frames, port := rest,
    answers := s.answers.drop frames.length, draws := s.draws + frames.length,
    responses := s.responses ++ responses }

end Sys2Proof.Machine

open Sys2Proof Sys2Proof.Machine

/-! ### Reset and invariant -/

/-- R21, R220: the block's four pieces of state after reset. -/
def Obligations.ResetLeavesTheBlockIdle : Prop :=
  State.reset.dc = .unknown ∧ State.reset.phase = .idle ∧ State.reset.req = none ∧ State.reset.trace = []

/-- The invariant holds after reset. -/
def Obligations.ResetSatisfiesTheInvariant : Prop := State.reset.Inv

/-- Every step keeps the invariant: phase and request agree (R24, R25), the select line follows the frames (R22), frames
have their widths (R57), the trace ends with what the running request has emitted (R126), and the failed requests are
answered with the failed frames' errors in order (R109, R193). -/
def Obligations.StepKeepsTheInvariant : Prop :=
  ∀ s t : State, s.Inv → step s = .next t → t.Inv

/-- From a state of the invariant a step gives a next state, or the port holds a truncated request and the step stops on
that (R77): there is no refusal and no other fault. The model's readings: that an idle block with an empty port answers a
next state (notes/assumptions/3.md), and that a frame with no answer yet does (R199, notes/assumptions/6.md). -/
def Obligations.InvariantStatesStopOnlyOnTruncation : Prop :=
  ∀ s : State, s.Inv →
    (∃ t, step s = .next t) ∨
    (s.phase = .idle ∧ decodeRequest s.port = .rejected .truncated ∧ step s = .fault .truncatedRequest)

/-! ### Encoding -/

/-- Decoding the encoding of any well-formed instruction gives it back, with whatever bytes follow it (R71 to R76 for
requests, R79 for emitted command frames with distinct command bytes, R8). -/
def Obligations.DecodeInvertsEncode : Prop :=
  ∀ (p : Params) (i : Instr) (rest : List Byte), p.commandsDistinct = true → i.wf = true →
    decode p i.port (encode p i ++ rest) = .instr i rest

/-- Every request that is read off the port is well-formed and its encoding is the bytes it was read from, so that each
byte string begins with at most one request (R71 to R76). -/
def Obligations.EncodeInvertsDecodeRequest : Prop :=
  ∀ (p : Params) (bytes rest : List Byte) (i : Instr), decodeRequest bytes = .instr i rest →
    i.wf = true ∧ i.port = .request ∧ encode p i ++ rest = bytes

/-- R75: the number of bytes a request takes is known from its header and, for DATA, from bytes 1 to 4. With that many
bytes on the port a request is read and takes exactly them; with fewer none is. -/
def Obligations.RequestLengthComesFromTheHeader : Prop :=
  (∀ op more, op ≠ 0x02#8 → requestLength (op :: more) =
    some (if op = 0x01#8 then 2 else if op = 0x03#8 then 9 else 1)) ∧
  (∀ b3 b2 b1 b0 more, requestLength (0x02#8 :: b3 :: b2 :: b1 :: b0 :: more) =
    some (5 + (((b3.toNat * 256 + b2.toNat) * 256 + b1.toNat) * 256 + b0.toNat))) ∧
  (∀ bytes n, requestLength bytes = some n →
    (n ≤ bytes.length → ∃ i, decodeRequest bytes = .instr i (bytes.drop n)) ∧
    (bytes.length < n → decodeRequest bytes = .rejected .truncated))

/-- Words written out from the encodings of R71 to R74 and R79 decode to the instructions they stand for. The three
command frames are those of the default command bytes, PRESUMED (notes/assumptions/9.md). -/
def Obligations.SampleWordsDecode : Prop :=
  decodeRequest [0x01#8, 0x29#8] = .instr (.cmd 0x29#8) [] ∧
  decodeRequest [0x02#8, 0x00#8, 0x00#8, 0x00#8, 0x03#8, 0x01#8, 0x02#8, 0x03#8, 0x01#8] =
    .instr (.data [0x01#8, 0x02#8, 0x03#8]) [0x01#8] ∧
  decodeRequest [0x03#8, 0x01#8, 0x2C#8, 0x00#8, 0x0A#8, 0x00#8, 0x14#8, 0x00#8, 0x05#8] =
    .instr (.setWindow 300#16 10#16 20#16 5#16) [] ∧
  decodeRequest [0x2A#8, 0x29#8] = .instr (.reserved 0x2A#8) [0x29#8] ∧
  decodeCommandFrame Params.default [0x2A#8] = .instr .casetFrame [] ∧
  decodeCommandFrame Params.default [0x2B#8] = .instr .rasetFrame [] ∧
  decodeCommandFrame Params.default [0x2C#8] = .instr .ramwrFrame []

/-- R53: a 16-bit value goes on the bus as two bytes, the high one first. -/
def Obligations.BoundsAreSentHighByteFirst : Prop :=
  ∀ origin extent : Half, ∃ b0 b1 b2 b3 : Byte, boundPayload origin extent = [b0, b1, b2, b3] ∧
    b0.toNat * 256 + b1.toNat = origin.toNat ∧ b2.toNat * 256 + b3.toNat = (origin + extent - 1).toNat

/-! ### The step -/

/-- In IDLE a step executes the request at the head of the port, with its bytes gone from the port (R30, R221). -/
def Obligations.StepRunsTheRequestAtThePort : Prop :=
  ∀ (s : State) (i : Instr) (rest : List Byte), s.phase = .idle → decodeRequest s.port = .instr i rest →
    step s = exec i { s with port := rest }

/-- Outside IDLE a step executes what the phase selects: the latched request in a framer phase, the emitted-frame row in a
sequencer phase (R24, R127). The model's choice (notes/assumptions/11.md): that the phases run the emitted-frame rows as
instructions, CASET_FRAME in W_CASET_C and W_CASET_D, RASET_FRAME in W_RASET_C and W_RASET_D, RAMWR_FRAME in
W_RAMWR_C. -/
def Obligations.StepRunsWhatThePhaseSelects : Prop :=
  ∀ s : State,
    (∀ c, s.phase = .fCmd → s.req = some (.cmd c) → step s = exec (.cmd c) s) ∧
    (∀ payload, s.phase = .fData → s.req = some (.data payload) → step s = exec (.data payload) s) ∧
    (s.phase = .wCasetC ∨ s.phase = .wCasetD → step s = exec .casetFrame s) ∧
    (s.phase = .wRasetC ∨ s.phase = .wRasetD → step s = exec .rasetFrame s) ∧
    (s.phase = .wRamwrC → step s = exec .ramwrFrame s)

/-- The model's choice (notes/assumptions/3.md): an idle block to which the host presents nothing stays as it is. -/
def Obligations.IdleBlockWithNoRequestStays : Prop :=
  ∀ s : State, s.phase = .idle → s.port = [] → step s = .next s

/-- R77: where the port holds the beginning of a request's bytes and no more, there is no step. -/
def Obligations.TruncatedRequestIsStuck : Prop :=
  ∀ (s : State) (i : Instr) (missing : List Byte), i.wf = true → i.port = .request → s.phase = .idle →
    s.port ≠ [] → missing ≠ [] → s.port ++ missing = encode s.params i → step s = .fault .truncatedRequest

/-! ### RESERVED -/

/-- R76: a reserved header is consumed, emits no frame, leaves `dc` unchanged and is answered `InvalidArgument`. -/
def Obligations.ReservedHeaderIsInvalidArgument : Prop :=
  (∀ (s : State) (op : Byte), s.phase = .idle → exec (.reserved op) s =
    .next { s with phase := .idle, req := none, responses := s.responses ++ [.invalidArgument] }) ∧
  (∀ (s : State) (op : Byte) (rest : List Byte), s.phase = .idle → s.port = op :: rest →
    (op = 0x00#8 ∨ 0x04#8 ≤ op) → step s =
    .next { s with port := rest, phase := .idle, req := none, responses := s.responses ++ [.invalidArgument] })

/-! ### CMD -/

/-- R101, R24, R25: in IDLE, CMD is latched and F_CMD entered; nothing else changes. -/
def Obligations.CmdIsLatchedInIdle : Prop :=
  ∀ (s : State) (c : Byte), s.phase = .idle →
    exec (.cmd c) s = .next { s with req := some (.cmd c), phase := .fCmd }

/-- R101, R102: in F_CMD, CMD carries the one command frame of its byte at level Command, and `dc` is Command whatever it
was and whatever the outcome. The model's part (notes/assumptions/6.md): a frame that has no answer yet (R199) is a step
that keeps the phase, with `dc` set and no frame in the trace. -/
def Obligations.CmdEmitsItsCommandFrame : Prop :=
  ∀ (s : State) (c : Byte), s.phase = .fCmd → s.req = some (.cmd c) → CarriesFrame (.cmd c) s .command [c] none

/-- R103: from IDLE with CMD at the port, one step enters F_CMD without a response; there, while the transport does not
answer, the block stays without a response; its answer leads back to IDLE with exactly one frame and one response. That
an unanswered frame is a step that stays in F_CMD is the model's reading of R199 (notes/assumptions/6.md). -/
def Obligations.CmdRunsToItsResponse : Prop :=
  ∀ (s : State) (c : Byte) (rest : List Byte), s.phase = .idle → s.port = 0x01#8 :: c :: rest →
    ∃ m, step s = .next m ∧ m.phase = .fCmd ∧ m.responses = s.responses ∧ m.trace = s.trace ∧
      (s.nextAnswer = .pending → ∃ u, step m = .next u ∧ u.phase = .fCmd ∧ u.req = some (.cmd c) ∧
        u.responses = s.responses ∧ u.trace = s.trace) ∧
      (∀ o : FrameOutcome, s.nextAnswer = o.answer → step m = .next { s with
        dc := .command, phase := .idle, req := none, trace := s.trace ++ [⟨.command, [c], o⟩], port := rest,
        answers := s.answers.tail, draws := s.draws + 1, responses := s.responses ++ [outcomeResponse o] })

/-! ### DATA -/

/-- R105, R25: in IDLE, an empty DATA is answered `Ok` at once; any other is latched and F_DATA entered; nothing else
changes. -/
def Obligations.DataIsAnsweredOrLatchedInIdle : Prop :=
  ∀ (s : State) (payload : List Byte), s.phase = .idle →
    (payload = [] → exec (.data payload) s =
      .next { s with phase := .idle, req := none, responses := s.responses ++ [.ok] }) ∧
    (payload ≠ [] → exec (.data payload) s = .next { s with req := some (.data payload), phase := .fData })

/-- R105, R106: in F_DATA, DATA carries the one data frame of its payload at level Data, and `dc` is Data whatever it was
and whatever the outcome; an empty DATA does not write `dc`. The model's part (notes/assumptions/6.md): a frame that has no
answer yet (R199) is a step that keeps the phase, with `dc` set and no frame in the trace. -/
def Obligations.DataEmitsItsDataFrame : Prop :=
  (∀ (s : State) (payload : List Byte), payload ≠ [] → s.phase = .fData → s.req = some (.data payload) →
    CarriesFrame (.data payload) s .data payload none) ∧
  (∀ s : State, s.phase = .idle → ∃ t, exec (.data []) s = .next t ∧ t.dc = s.dc ∧ t.trace = s.trace ∧
    t.responses = s.responses ++ [.ok])

/-- R107: from IDLE with DATA at the port: a non-empty payload takes one step into F_DATA and, when the transport answers,
one back to IDLE with one frame of exactly its bytes; an empty one takes one step from IDLE to IDLE with `Ok`, no frame,
and the transport not asked. That an unanswered frame is a step that stays in F_DATA is the model's reading of R199
(notes/assumptions/6.md). -/
def Obligations.DataRunsToItsResponse : Prop :=
  ∀ (s : State) (payload rest : List Byte), s.phase = .idle → payload.length ≤ maxDataLen →
    s.port = encode s.params (.data payload) ++ rest →
    (payload = [] → step s =
      .next { s with port := rest, phase := .idle, req := none, responses := s.responses ++ [.ok] }) ∧
    (payload ≠ [] → ∃ m, step s = .next m ∧ m.phase = .fData ∧ m.responses = s.responses ∧ m.trace = s.trace ∧
      (s.nextAnswer = .pending → ∃ u, step m = .next u ∧ u.phase = .fData ∧ u.req = some (.data payload) ∧
        u.responses = s.responses ∧ u.trace = s.trace) ∧
      (∀ o : FrameOutcome, s.nextAnswer = o.answer → step m = .next { s with
        dc := .data, phase := .idle, req := none, trace := s.trace ++ [⟨.data, payload, o⟩], port := rest,
        answers := s.answers.tail, draws := s.draws + 1, responses := s.responses ++ [outcomeResponse o] }))

/-- R52, R54: the data frame of a payload carries `PayloadRead(0), ..., PayloadRead(L-1)` in that order and nothing
else. -/
def Obligations.PayloadIsCarriedInIndexOrder : Prop :=
  ∀ (s t : State) (payload : List Byte) (f : Frame), s.phase = .fData → s.req = some (.data payload) →
    step s = .next t → t.trace = s.trace ++ [f] →
    f.level = .data ∧ f.bytes.length = payload.length ∧
    ∀ i, i < payload.length → (payloadRead payload i).isSome = true ∧ f.bytes[i]? = payloadRead payload i

/-! ### SET_WINDOW -/

/-- R122, R123: SET_WINDOW in IDLE is valid exactly when the four comparisons hold on its operands as unbounded integers;
then it is latched and W_CASET_C entered. Otherwise it is answered `InvalidArgument`, with no frame and `dc` unchanged. -/
def Obligations.SetWindowIsValidatedExactly : Prop :=
  ∀ (s : State) (x y w h : Half), s.phase = .idle →
    ((x.toNat ≤ s.params.panelWidth ∧ y.toNat ≤ s.params.panelHeight ∧
        x.toNat + w.toNat ≤ s.params.panelWidth ∧ y.toNat + h.toNat ≤ s.params.panelHeight) →
      exec (.setWindow x y w h) s = .next { s with req := some (.setWindow x y w h), phase := .wCasetC }) ∧
    (¬(x.toNat ≤ s.params.panelWidth ∧ y.toNat ≤ s.params.panelHeight ∧
        x.toNat + w.toNat ≤ s.params.panelWidth ∧ y.toNat + h.toNat ≤ s.params.panelHeight) →
      exec (.setWindow x y w h) s =
        .next { s with phase := .idle, req := none, responses := s.responses ++ [.invalidArgument] })

/-- R124: the bounds are the origin and `(origin + extent - 1) mod 2^16`, sent in that order, each high byte first; for a
valid window with both extents at least 1 they lie in the panel in order and the reduction changes nothing. -/
def Obligations.WindowBoundsLieInThePanel : Prop :=
  ∀ (p : Params) (x y w h : Half), p.panelFits = true → windowValid p x y w h = true →
    boundPayload x w = [hi8 (boundStart x), lo8 (boundStart x), hi8 (boundEnd x w), lo8 (boundEnd x w)] ∧
    boundPayload y h = [hi8 (boundStart y), lo8 (boundStart y), hi8 (boundEnd y h), lo8 (boundEnd y h)] ∧
    boundStart x = x ∧ boundStart y = y ∧
    ((boundEnd x w).toNat : Int) = ((x.toNat : Int) + w.toNat - 1) % 65536 ∧
    ((boundEnd y h).toNat : Int) = ((y.toNat : Int) + h.toNat - 1) % 65536 ∧
    (1 ≤ w.toNat → 1 ≤ h.toNat →
      (boundEnd x w).toNat = x.toNat + w.toNat - 1 ∧ (boundEnd y h).toNat = y.toNat + h.toNat - 1 ∧
      (boundStart x).toNat ≤ (boundEnd x w).toNat ∧ (boundEnd x w).toNat ≤ p.panelWidth - 1 ∧
      (boundStart y).toNat ≤ (boundEnd y h).toNat ∧ (boundEnd y h).toNat ≤ p.panelHeight - 1)

/-- R125: a window of zero extent inside the four comparisons is accepted, and its end bound is one less than its start,
or 0xFFFF where the start is 0; at the panel's edge the start is the panel's extent. -/
def Obligations.ZeroExtentWindowsAreAccepted : Prop :=
  ∀ (s : State) (x y w h : Half), s.phase = .idle → windowValid s.params x y w h = true →
    (w = 0 ∨ h = 0) →
    exec (.setWindow x y w h) s = .next { s with req := some (.setWindow x y w h), phase := .wCasetC } ∧
    (w = 0 → 1 ≤ x.toNat → (boundEnd x w).toNat = x.toNat - 1) ∧ (w = 0 → x = 0 → boundEnd x w = 0xFFFF#16) ∧
    (w = 0 → x.toNat = s.params.panelWidth → (boundStart x).toNat = s.params.panelWidth) ∧
    (h = 0 → 1 ≤ y.toNat → (boundEnd y h).toNat = y.toNat - 1) ∧ (h = 0 → y = 0 → boundEnd y h = 0xFFFF#16) ∧
    (h = 0 → y.toNat = s.params.panelHeight → (boundStart y).toNat = s.params.panelHeight)

/-! ### The emitted frames -/

/-- R127, R128, R129: in W_CASET_C the column-address-set command frame, then W_CASET_D; there its payload frame of the
latched request's column bounds, then W_RASET_C. The model's choices: that CASET_FRAME is one instruction for both frames
(notes/assumptions/11.md), and that a frame with no answer yet (R199) is a step (notes/assumptions/6.md). -/
def Obligations.CasetFrameEmitsTheColumnFrames : Prop :=
  ∀ (s : State) (x y w h : Half), s.req = some (.setWindow x y w h) →
    (s.phase = .wCasetC → CarriesFrame .casetFrame s .command [s.params.cmdCaset] (some .wCasetD)) ∧
    (s.phase = .wCasetD → CarriesFrame .casetFrame s .data
      [hi8 x, lo8 x, hi8 (x + w - 1), lo8 (x + w - 1)] (some .wRasetC))

/-- R127, R130: in W_RASET_C the row-address-set command frame, then W_RASET_D; there its payload frame of the latched
request's row bounds, then W_RAMWR_C. The model's choices: that RASET_FRAME is one instruction for both frames
(notes/assumptions/11.md), and that a frame with no answer yet (R199) is a step (notes/assumptions/6.md). -/
def Obligations.RasetFrameEmitsTheRowFrames : Prop :=
  ∀ (s : State) (x y w h : Half), s.req = some (.setWindow x y w h) →
    (s.phase = .wRasetC → CarriesFrame .rasetFrame s .command [s.params.cmdRaset] (some .wRasetD)) ∧
    (s.phase = .wRasetD → CarriesFrame .rasetFrame s .data
      [hi8 y, lo8 y, hi8 (y + h - 1), lo8 (y + h - 1)] (some .wRamwrC))

/-- R127, R131: in W_RAMWR_C the memory-write command frame, with no payload, then IDLE with the response `Ok`.
The model's choices: that the row is an instruction its phase runs (notes/assumptions/11.md), and that a frame with no
answer yet (R199) is a step (notes/assumptions/6.md). -/
def Obligations.RamwrFrameEndsTheWindow : Prop :=
  ∀ (s : State) (x y w h : Half), s.req = some (.setWindow x y w h) → s.phase = .wRamwrC →
    CarriesFrame .ramwrFrame s .command [s.params.cmdRamwr] none

/-- R30, R201: a request executed while another runs is refused; in a framer phase every request but the latched one
is. -/
def Obligations.RequestsDuringARequestAreRefused : Prop :=
  ∀ s : State, s.phase ≠ .idle →
    (∀ c, (s.phase ≠ .fCmd ∨ s.req ≠ some (.cmd c)) → exec (.cmd c) s = .refused .overlappingRequest) ∧
    (∀ payload, (s.phase ≠ .fData ∨ s.req ≠ some (.data payload) ∨ payload = []) →
      exec (.data payload) s = .refused .overlappingRequest) ∧
    (∀ x y w h, exec (.setWindow x y w h) s = .refused .overlappingRequest) ∧
    (∀ op, exec (.reserved op) s = .refused .overlappingRequest)

/-- The model's choice (notes/assumptions/13.md): an emitted-frame row is refused outside its own phases, and in them when
no window request is latched. -/
def Obligations.EmittedFramesRunOnlyInTheirPhases : Prop :=
  ∀ s : State,
    (s.phase ≠ .wCasetC → s.phase ≠ .wCasetD → exec .casetFrame s = .refused .frameOutsideItsPhase) ∧
    (s.phase ≠ .wRasetC → s.phase ≠ .wRasetD → exec .rasetFrame s = .refused .frameOutsideItsPhase) ∧
    (s.phase ≠ .wRamwrC → exec .ramwrFrame s = .refused .frameOutsideItsPhase) ∧
    ((∀ x y w h, s.req ≠ some (.setWindow x y w h)) →
      exec .casetFrame s = .refused .frameOutsideItsPhase ∧ exec .rasetFrame s = .refused .frameOutsideItsPhase ∧
      exec .ramwrFrame s = .refused .frameOutsideItsPhase)

/-! ### Whole requests -/

/-- R79, R126: a valid SET_WINDOW whose frames all succeed emits exactly the five frames in their order and responds
`Ok`. Its execution in IDLE and five more steps do exactly this. -/
def Obligations.WindowRunEmitsItsFiveFrames : Prop :=
  ∀ (s : State) (x y w h : Half) (more : List TransportAnswer), s.phase = .idle →
    windowValid s.params x y w h = true → s.answers = [.ok, .ok, .ok, .ok, .ok] ++ more →
    ∃ m, exec (.setWindow x y w h) s = .next m ∧
      runSteps 5 m = .next { s with
        dc := .command, phase := .idle, req := none, answers := more, draws := s.draws + 5,
        responses := s.responses ++ [.ok],
        trace := s.trace ++
          [⟨.command, [s.params.cmdCaset], .ok⟩,
           ⟨.data, [hi8 x, lo8 x, hi8 (x + w - 1), lo8 (x + w - 1)], .ok⟩,
           ⟨.command, [s.params.cmdRaset], .ok⟩,
           ⟨.data, [hi8 y, lo8 y, hi8 (y + h - 1), lo8 (y + h - 1)], .ok⟩,
           ⟨.command, [s.params.cmdRamwr], .ok⟩] }

/-- R132, R136, R137: a valid SET_WINDOW whose frame number `k + 1` is the first to fail emits exactly `k + 1` frames, the
last with the error, responds `TransportFailure(e)` and leaves `dc` at the failed frame's level. -/
def Obligations.WindowRunAbortsAtTheFailedFrame : Prop :=
  ∀ (s : State) (x y w h : Half) (k : Nat) (e : TransportError) (more : List TransportAnswer) (b : FrameBody),
    s.phase = .idle → windowValid s.params x y w h = true →
    (windowFrames s.params x y w h)[k]? = some b →
    s.answers = List.replicate k .ok ++ .err e :: more →
    ∃ m, exec (.setWindow x y w h) s = .next m ∧
      runSteps (k + 1) m = .next { s with
        dc := selectLineOf b.1, phase := .idle, req := none, answers := more, draws := s.draws + (k + 1),
        responses := s.responses ++ [.transportFailure e],
        trace := s.trace ++ ((windowFrames s.params x y w h).take k).map (fun b => ⟨b.1, b.2, .ok⟩)
          ++ [⟨b.1, b.2, .err e⟩] }

/-- The phases of the block carry out exactly the whole-request description, for every request at the port and every
outcome the transport gives: validation before any frame, the frames in their order up to the first failure, one response
(R101, R105, R121, R76, R191, R194). -/
def Obligations.RequestRunIsItsResult : Prop :=
  ∀ (s : State) (i : Instr) (rest : List Byte) (outcomes : List FrameOutcome) (more : List TransportAnswer)
    (frames : List Frame) (r : Response),
    s.phase = .idle → decodeRequest s.port = .instr i rest →
    s.answers = outcomes.map FrameOutcome.answer ++ more →
    requestResult s.params i outcomes = some (frames, r) →
    runSteps (frames.length + 1) s = .next (afterRun s rest frames [r])

/-- A run over any list of requests: its result is the list of responses, one for each request in order, and the frames of
each request, all before any frame of the next (R61, R190, R232). -/
def Obligations.RequestsRunIsTheirResults : Prop :=
  ∀ (is : List Instr) (s : State) (rest : List Byte) (outcomes : List FrameOutcome) (more : List TransportAnswer)
    (frames : List Frame) (responses : List Response),
    s.phase = .idle → s.req = none → (∀ i ∈ is, i.wf = true ∧ i.port = .request) →
    s.port = is.flatMap (encode s.params) ++ rest →
    s.answers = outcomes.map FrameOutcome.answer ++ more →
    requestsResult s.params is outcomes = some (frames, responses) →
    responses.length = is.length ∧
      runSteps (frames.length + is.length) s = .next (afterRun s rest frames responses)

/-! ### Whole-machine rules -/

/-- R22, R23: a step in IDLE does not write `dc`; a step in any other phase leaves it at the level of that phase's frame,
so that the line's level no longer depends on the level it had at reset. -/
def Obligations.SelectLineIsWrittenByFramesOnly : Prop :=
  ∀ s t : State, step s = .next t →
    (s.phase = .idle → t.dc = s.dc) ∧
    (∀ l, s.phase.level? = some l → t.dc = selectLineOf l ∧ t.lineLevel = l)

/-- R59, R61: a step appends at most one frame and never changes the frames before it; in IDLE it appends none. -/
def Obligations.TraceGrowsByOneFrameAtMost : Prop :=
  ∀ s t : State, step s = .next t →
    t.trace = s.trace ∨
    (s.phase ≠ .idle ∧ ∃ f, t.trace = s.trace ++ [f] ∧ some f.level = s.phase.level?)

/-- R57, R78: a frame at the command level has exactly one byte and a frame at the data level at least one; the window
payload frames have exactly four and the memory-write frame one. -/
def Obligations.EveryFrameHasItsWidth : Prop :=
  ∀ (s t : State) (f : Frame), step s = .next t → t.trace = s.trace ++ [f] →
    (f.level = .command → f.bytes.length = 1) ∧ (f.level = .data → 1 ≤ f.bytes.length) ∧
    (s.phase = .wCasetD ∨ s.phase = .wRasetD → f.bytes.length = 4) ∧
    (s.phase = .wRamwrC → f.bytes.length = 1 ∧ t.phase = .idle)

/-- R190, R195: a step gives at most one response, and giving it leaves the block in IDLE with no request; no response is
ever taken back. A step that leaves a phase for IDLE gives one. -/
def Obligations.ResponsesEndTheRequest : Prop :=
  ∀ s t : State, step s = .next t →
    (t.responses = s.responses ∨
      (∃ r, t.responses = s.responses ++ [r] ∧ t.phase = .idle ∧ t.req = none)) ∧
    (s.phase ≠ .idle → t.phase = .idle → t.responses ≠ s.responses)

/-- R192: a request answered `InvalidArgument` leaves the block as it was before the request: no frame, `dc` and `trace`
unchanged, IDLE, no request; and only the request's bytes have left the port. -/
def Obligations.InvalidArgumentLeavesTheBlockUnchanged : Prop :=
  ∀ s t : State, s.Inv → step s = .next t → t.responses = s.responses ++ [.invalidArgument] →
    t = { s with port := t.port, responses := s.responses ++ [.invalidArgument] } ∧ t.phase = .idle ∧ t.req = none ∧
    ∃ i, decodeRequest s.port = .instr i t.port

/-- R193, R109: a step answers `TransportFailure(e)` exactly when it appends a frame whose outcome is `Err(e)`, with the
same `e`. -/
def Obligations.TransportFailureReportsTheFailedFrame : Prop :=
  ∀ (s t : State) (e : TransportError), step s = .next t →
    (t.responses = s.responses ++ [.transportFailure e] ↔
      ∃ l bytes, t.trace = s.trace ++ [⟨l, bytes, .err e⟩])

/-- R191: which request can give which response. The request is the one at the port in IDLE, the latched one otherwise. -/
def Obligations.ResponsesFollowTheTable : Prop :=
  ∀ (s t : State) (r : Response) (i : Instr), s.Inv → step s = .next t → t.responses = s.responses ++ [r] →
    ((s.phase = .idle ∧ ∃ rest, decodeRequest s.port = .instr i rest) ∨
      (∃ q, s.phase ≠ .idle ∧ s.req = some q ∧ i = q.instr)) →
    (∀ c, i = .cmd c → r ≠ .invalidArgument) ∧
    (∀ payload, i = .data payload → r ≠ .invalidArgument ∧ (payload = [] → r = .ok)) ∧
    (∀ x y w h, i = .setWindow x y w h → (r = .invalidArgument ↔ windowValid s.params x y w h = false)) ∧
    (∀ op, i = .reserved op → r = .invalidArgument)

/-- R199: while the transport does not answer, the block stays in the frame's phase with its request, and gives no frame
and no response. The model's part of it (notes/assumptions/6.md): the wait is a step that only consults the transport. -/
def Obligations.UnansweredFrameKeepsThePhase : Prop :=
  ∀ s : State, s.Inv → s.phase ≠ .idle → s.nextAnswer = .pending →
    ∃ t, step s = .next t ∧ t.phase = s.phase ∧ t.req = s.req ∧ t.trace = s.trace ∧ t.responses = s.responses ∧
      t.port = s.port ∧ t.params = s.params

/-- R26, R133: nothing of earlier requests bears on a later step. Two states that agree on the phase, the latched request,
the parameters and the inputs, whatever their select lines, traces and responses, step alike: to the same phase, request
and inputs, appending the same frames and the same responses. -/
def Obligations.EarlierRequestsLeaveNoState : Prop :=
  ∀ s s' t : State, s.phase = s'.phase → s.req = s'.req → s.params = s'.params → s.port = s'.port →
    s.answers = s'.answers → s.draws = s'.draws → step s = .next t →
    ∃ (t' : State) (frames : List Frame) (responses : List Response), step s' = .next t' ∧
      t.trace = s.trace ++ frames ∧ t'.trace = s'.trace ++ frames ∧
      t.responses = s.responses ++ responses ∧ t'.responses = s'.responses ++ responses ∧
      t.phase = t'.phase ∧ t.req = t'.req ∧ t.params = t'.params ∧ t.port = t'.port ∧
      t.answers = t'.answers ∧ t.draws = t'.draws ∧ (frames ≠ [] → t.dc = t'.dc)

/-- R30, R27, R21: the port is read only in IDLE, from its head, and each step that takes bytes takes one request's; the
transport is consulted only outside IDLE; the parameters are never written. The model's choices: the port as a list of
bytes (notes/assumptions/2.md), the answers as a list of which each step outside IDLE takes one and the counter of the
free value (notes/assumptions/5.md), and that an unanswered frame takes a step too (notes/assumptions/6.md). -/
def Obligations.InputsAreReadInTheirPhases : Prop :=
  ∀ s t : State, step s = .next t →
    t.params = s.params ∧
    (s.phase = .idle → t.answers = s.answers ∧ t.draws = s.draws ∧
      (t.port = s.port ∨ ∃ i, decodeRequest s.port = .instr i t.port)) ∧
    (s.phase ≠ .idle → t.port = s.port ∧ t.answers = s.answers.tail ∧ t.draws = s.draws + 1)

/-- R33: the pixel stream after a frame of the trace is all data frames, stands right after it in the trace, and ends
only at a command frame or the trace's end. -/
def Obligations.PixelStreamIsTheMaximalDataRun : Prop :=
  ∀ (trace : List Frame) (n : Nat), ∃ later : List Frame,
    trace.drop (n + 1) = pixelStream trace n ++ later ∧
    (∀ f ∈ pixelStream trace n, f.level = .data) ∧ (∀ f, later.head? = some f → f.level = .command)

/-- R190: the response codes. -/
def Obligations.ResponseCodesAreZeroOneTwo : Prop :=
  Response.ok.code = 0 ∧ Response.invalidArgument.code = 1 ∧ ∀ e, (Response.transportFailure e).code = 2

/-! ### The host's operations (outside the block) -/

/-- R152: the scaling is rounding to the nearest, and no channel value is a tie. -/
def Obligations.ScalingRoundsToTheNearest : Prop :=
  ∀ c : Byte, ∀ n ∈ [4, 5, 6],
    2 * (255 * scaled n c) < 2 * (c.toNat * (2 ^ n - 1)) + 255 ∧
    2 * (c.toNat * (2 ^ n - 1)) < 2 * (255 * scaled n c) + 255

/-- R152: each packed word holds its three scaled channels in fields of their own, red the most significant. -/
def Obligations.PackingKeepsTheChannels : Prop :=
  ∀ c : Color,
    c.pack12.toNat = (scaled 4 c.r * 16 + scaled 4 c.g) * 16 + scaled 4 c.b ∧
    c.pack16.toNat = (scaled 5 c.r * 64 + scaled 6 c.g) * 32 + scaled 5 c.b ∧
    c.pack18.toNat = (scaled 6 c.r * 64 + scaled 6 c.g) * 64 + scaled 6 c.b

/-- R155: every window any host operation issues passes the block's validation. -/
def Obligations.HostWindowsAreValid : Prop :=
  ∀ (hp : HostParams) (p : Params) (mode : ColorMode) (choice : Nat → StreamChoice) (op : HostOp)
    (as : List HostAction) (x y w h : Half),
    p.panelFits = true → op.plan hp p mode choice = .actions as →
    Request.setWindow x y w h ∈ requestsOf as → windowValid p x y w h = true

/-- R150, R155 (and the source's example E2): a primitive whose origin lies outside the panel returns `InvalidArgument`
and leaves the driver and the block untouched. -/
def Obligations.OriginOutsideThePanelIssuesNothing : Prop :=
  ∀ (patience : Nat) (hp : HostParams) (choice : Nat → StreamChoice) (d : Driver) (x y w h : Half) (color : Color)
    (pixels : Option (List (BitVec 16))),
    (d.block.params.panelWidth ≤ x.toNat ∨ d.block.params.panelHeight ≤ y.toNat) →
    ∀ op ∈ [HostOp.setPixel x y color, .fillRect x y w h color, .drawHline x y w color, .drawVline x y h color,
        .drawRect x y w h color, .drawBitmap x y w h pixels],
      op.run patience hp .bits16 choice d = (.returned .invalidArgument, d)

/-- R154, R169: the DATA requests of a stream carry its bytes, each once and in order, however it is split; none is empty
unless the stream is. -/
def Obligations.StreamsCarryEveryByteOnce : Prop :=
  ∀ (choice : StreamChoice) (bytes : List Byte), ∃ payloads : List (List Byte),
    streamActions choice bytes = payloads.map (fun payload => .request (.data payload)) ∧
    payloads.flatten = bytes ∧ (bytes ≠ [] → [] ∉ payloads)

/-- R154: every split of a stream into non-empty payloads is admitted. -/
def Obligations.EverySplitIsAdmitted : Prop :=
  ∀ payloads : List (List Byte), [] ∉ payloads → ∃ choice : StreamChoice,
    streamActions choice payloads.flatten = payloads.map (fun payload => .request (.data payload))

/-- R162: of a bitmap of rows of `w` words, row `j` and column `i` of the clipped rectangle is word `j*w + i`, and exactly
`w'*h'` words are sent. -/
def Obligations.ClippedBitmapTakesRowsAndColumns : Prop :=
  ∀ (w w' h h' : Nat) (pixels : List (BitVec 16)), pixels.length = w * h → w' ≤ w → h' ≤ h →
    (clippedBitmap w w' h' pixels).length = w' * h' ∧
    ∀ j i, j < h' → i < w' → (clippedBitmap w w' h' pixels)[j * w' + i]? = pixels[j * w + i]?

/-- R161: the outline of a rectangle whose clipped extents are not zero is four windows, its top, bottom, left and right
edges in that order. -/
def Obligations.OutlineIsFourWindows : Prop :=
  ∀ (p : Params) (choice : Nat → StreamChoice) (x y w h : Half) (word : BitVec 16), p.panelFits = true →
    originInside p x y = true → clip p.panelWidth x w ≠ 0 → clip p.panelHeight y h ≠ 0 →
    windowsOf (outlineActions p choice x y w h word) =
      [.setWindow x y (clip p.panelWidth x w) 1,
       .setWindow x (y + clip p.panelHeight y h - 1) (clip p.panelWidth x w) 1,
       .setWindow x y 1 (clip p.panelHeight y h),
       .setWindow (x + clip p.panelWidth x w - 1) y 1 (clip p.panelHeight y h)]

/-- R170, R155: a request answered `Ok` lets the operation go on with its later actions; any other response ends it with
that response, and nothing later is done. So an operation goes on with its later actions exactly when all earlier ones
have been answered `Ok`, and any other end of the earlier ones is the operation's end. With no response the operation does
not return (R199; the model's choices, notes/assumptions/25.md and 27.md). -/
def Obligations.HostStopsAtTheFirstFailure : Prop :=
  ∀ (patience : Nat) (d : Driver),
    (∀ (r : Request) (as : List HostAction),
      ((d.issue patience r).1 = some .ok →
        d.perform patience (.request r :: as) = (d.issue patience r).2.perform patience as) ∧
      (∀ resp, (d.issue patience r).1 = some resp → resp ≠ .ok →
        d.perform patience (.request r :: as) = (.returned resp, (d.issue patience r).2)) ∧
      ((d.issue patience r).1 = none →
        (d.perform patience (.request r :: as)).2 = (d.issue patience r).2 ∧
        ∀ resp, (d.perform patience (.request r :: as)).1 ≠ .returned resp)) ∧
    (∀ before after : List HostAction,
      ((d.perform patience before).1 = .returned .ok →
        d.perform patience (before ++ after) = (d.perform patience before).2.perform patience after) ∧
      ((d.perform patience before).1 ≠ .returned .ok →
        d.perform patience (before ++ after) = d.perform patience before))

/-- R175: the replay of a table of `N` descriptors is `2N` protocol calls, for each descriptor in order its command and
then its payload, empty payloads included. -/
def Obligations.TableReplayIssuesTwoCallsPerEntry : Prop :=
  ∀ (hp : HostParams) (table : List Descriptor),
    requestsOf (table.flatMap (descriptorActions hp)) =
      table.flatMap (fun d => [.cmd d.command, .data d.payload]) ∧
    (requestsOf (table.flatMap (descriptorActions hp))).length = 2 * table.length

/-- R170, R30: issuing a request to an idle block gives that request's response and the block after its whole run, when
the transport answers each frame and the driver waits for the five frames. -/
def Obligations.IssuedRequestGivesItsResult : Prop :=
  ∀ (patience : Nat) (q : Request) (d : Driver) (outcomes : List FrameOutcome) (more : List TransportAnswer)
    (frames : List Frame) (r : Response),
    6 ≤ patience → q.instr.wf = true → d.block.phase = .idle → d.block.req = none → d.block.port = [] →
    d.block.answers = outcomes.map FrameOutcome.answer ++ more →
    requestResult d.block.params q.instr outcomes = some (frames, r) →
    d.issue patience q = (some r, { d with block := afterRun d.block [] frames [r] })

/-- R168: setting a rotation is the access-control command and one data byte, `ROTATION_TABLE[r mod 8] | BGR_FLAG`. The
rotation wraps modulo 8, so that no rotation is `InvalidArgument`. -/
def Obligations.RotationWrapsModuloEight : Prop :=
  ∀ (hp : HostParams) (p : Params) (choice : Nat → StreamChoice) (r : Byte),
    (HostOp.setRotation r).plan hp p .bits16 choice =
      .actions [.request (.cmd hp.cmdMadctl),
        .request (.data [hp.rotationTable[r.toNat % 8]'(Nat.mod_lt _ (by decide)) ||| hp.bgrFlag])] ∧
    (HostOp.setRotation (r % 8)).plan hp p .bits16 choice = (HostOp.setRotation r).plan hp p .bits16 choice ∧
    ∀ mode, (HostOp.setRotation r).plan hp p mode choice ≠ .invalidArgument

/-- R171: the reset pulse issues no request, cannot fail, and drives the line through its three phases with a hold after
each of the first two. That a pulse on its own keeps the state of the Initialization Sequencer is the model's choice
(notes/assumptions/28.md). -/
def Obligations.ResetPulseLeavesTheBlock : Prop :=
  ∀ (patience : Nat) (hp : HostParams) (choice : Nat → StreamChoice) (d : Driver),
    HostOp.hardReset.run patience hp .bits16 choice d = (.returned .ok, { d with events := d.events ++
      [.resetLine .active, .waited hp.tReset, .resetLine .inactive, .waited hp.tReset, .resetLine .high] })

/-- R153: a 16-bit word goes into a payload as two bytes, the high one first, a stream of equal words as their repetition;
in the other modes every host operation is refused, and the driver and the block are untouched. -/
def Obligations.OnlySixteenBitModeRuns : Prop :=
  (∀ (n : Nat) (word : BitVec 16), streamBytes (List.replicate n word) =
    (List.replicate n [word.extractLsb' 8 8, word.extractLsb' 0 8]).flatten) ∧
  (∀ (patience : Nat) (hp : HostParams) (mode : ColorMode) (choice : Nat → StreamChoice) (op : HostOp) (d : Driver),
    mode ≠ .bits16 → op.run patience hp mode choice d = (.refused .colorModeUnsupported, d))

/-- R172 to R176: an initialization whose frames all succeed, on a panel whose pixel stream fits one DATA request,
returns `Ok` in the state Ready with the block idle. It has emitted the software reset, the table's frames byte for byte
and in order (none for an empty payload), the window of the whole panel and then data frames that together carry one
black word for each pixel; and it has pulsed the reset line and held every delay. That an initialization may begin in any
state of the sequencer is the model's choice (notes/assumptions/28.md). -/
def Obligations.InitializationEndsReady : Prop :=
  ∀ (patience : Nat) (hp : HostParams) (choice : Nat → StreamChoice) (d : Driver) (n : Nat),
    6 ≤ patience → d.block.params.panelFits = true → d.block.phase = .idle → d.block.req = none →
    d.block.port = [] → (hp.initTable.all fun e => e.fits) = true →
    2 * (d.block.params.panelWidth * d.block.params.panelHeight) ≤ maxDataLen →
    d.block.answers = List.replicate n .ok →
    6 + 2 * hp.initTable.length + 2 * (d.block.params.panelWidth * d.block.params.panelHeight) ≤ n →
    ∃ (d' : Driver) (stream : List Frame),
      HostOp.init.run patience hp .bits16 choice d = (.returned .ok, d') ∧
      d'.initState = .ready ∧ d'.block.phase = .idle ∧ d'.block.req = none ∧ d'.block.dc = .data ∧
      d'.events = d.events ++
        [.resetLine .active, .waited hp.tReset, .resetLine .inactive, .waited hp.tReset, .resetLine .high,
          .waited hp.tSwreset] ++ List.replicate hp.initTable.length (.waited hp.tInitStep) ∧
      d'.block.trace = d.block.trace ++ [⟨.command, [hp.cmdSwreset], .ok⟩] ++
        hp.initTable.flatMap (fun e => ⟨.command, [e.command], .ok⟩ ::
          (if e.payload = [] then [] else [⟨.data, e.payload, .ok⟩])) ++
        (windowFrames d.block.params 0 0 (BitVec.ofNat 16 d.block.params.panelWidth)
          (BitVec.ofNat 16 d.block.params.panelHeight)).map (fun b => ⟨b.1, b.2, .ok⟩) ++ stream ∧
      (∀ f ∈ stream, f.level = .data ∧ f.outcome = .ok) ∧
      stream.flatMap Frame.bytes =
        List.replicate (2 * (d.block.params.panelWidth * d.block.params.panelHeight)) 0#8
end

