-- ==== Sys2Proof/Laws/Decode.lean ====
section
/-! SUPPORT. The byte-order lemmas of the decoder and the encoder. -/

namespace Sys2Proof

@[simp] theorem halfOfBytes_hi8_lo8 (v : Half) : halfOfBytes (hi8 v) (lo8 v) = v := by
  apply BitVec.eq_of_getLsbD_eq
  intro i hi
  simp only [halfOfBytes, hi8, lo8, BitVec.getLsbD_append, BitVec.getLsbD_extractLsb']
  by_cases h : i < 8
  · simp [h]
  · have h2 : i - 8 < 8 := by omega
    have h3 : 8 + (i - 8) = i := by omega
    simp [h, h2, h3]

@[simp] theorem hi8_halfOfBytes (hi lo : Byte) : hi8 (halfOfBytes hi lo) = hi := by
  apply BitVec.eq_of_getLsbD_eq
  intro i h
  have h1 : ¬ 8 + i < 8 := by omega
  have h2 : 8 + i - 8 = i := by omega
  simp only [hi8, halfOfBytes, BitVec.getLsbD_extractLsb', BitVec.getLsbD_append, h, h1, h2, decide_true,
    Bool.true_and, if_false]

@[simp] theorem lo8_halfOfBytes (hi lo : Byte) : lo8 (halfOfBytes hi lo) = lo := by
  apply BitVec.eq_of_getLsbD_eq
  intro i h
  simp only [lo8, halfOfBytes, BitVec.getLsbD_extractLsb', BitVec.getLsbD_append, h, decide_true, Bool.true_and,
    if_true, Nat.zero_add]

/-- The bytes of a half-word are its high and low parts by division (R53). -/
theorem hi8_toNat (v : Half) : (hi8 v).toNat = v.toNat / 256 := by
  have := v.isLt
  simp only [hi8, BitVec.extractLsb'_toNat, Nat.shiftRight_eq_div_pow]
  omega

theorem lo8_toNat (v : Half) : (lo8 v).toNat = v.toNat % 256 := by
  simp only [lo8, BitVec.extractLsb'_toNat, Nat.shiftRight_eq_div_pow]
  omega

/-- A length that fits the field is read back from its bytes (R74). -/
theorem lengthOfBytes_ofNat {n : Nat} (h : n ≤ maxDataLen) :
    lengthOfBytes (BitVec.ofNat 8 (n / 16777216)) (BitVec.ofNat 8 (n / 65536)) (BitVec.ofNat 8 (n / 256))
      (BitVec.ofNat 8 n) = n := by
  simp only [lengthOfBytes, BitVec.toNat_ofNat, maxDataLen] at *
  omega

/-- A length field never exceeds `MAX_DATA_LEN` (R74). -/
theorem lengthOfBytes_le (b3 b2 b1 b0 : Byte) : lengthOfBytes b3 b2 b1 b0 ≤ maxDataLen := by
  have h3 := b3.isLt
  have h2 := b2.isLt
  have h1 := b1.isLt
  have h0 := b0.isLt
  simp only [lengthOfBytes, maxDataLen]
  omega

/-- The length field's bytes are those of its value (R74). -/
theorem bytesOfLength_lengthOfBytes (b3 b2 b1 b0 : Byte) :
    bytesOfLength (lengthOfBytes b3 b2 b1 b0) = [b3, b2, b1, b0] := by
  have h3 := b3.isLt
  have h2 := b2.isLt
  have h1 := b1.isLt
  have h0 := b0.isLt
  simp only [bytesOfLength, lengthOfBytes, List.cons.injEq, and_true]
  refine ⟨?_, ?_, ?_, ?_⟩ <;>
    (apply BitVec.eq_of_toNat_eq; simp only [BitVec.toNat_ofNat]; omega)

@[simp] theorem bytesOfLength_length (n : Nat) : (bytesOfLength n).length = 4 := rfl

@[simp] theorem bytesOfHalf_length (v : Half) : (bytesOfHalf v).length = 2 := rfl

/-- The decoder of the request port gives a request, or finds the bytes truncated (R77), or finds none. -/
theorem decodeRequest_cases (bytes : List Byte) :
    (∃ i rest, decodeRequest bytes = .instr i rest ∧ i.port = .request) ∨
    (bytes ≠ [] ∧ decodeRequest bytes = .rejected .truncated) ∨
    (bytes = [] ∧ decodeRequest bytes = .rejected .noBytes) := by
  cases bytes with
  | nil => exact .inr (.inr ⟨rfl, rfl⟩)
  | cons op more =>
    simp only [decodeRequest]
    split
    · cases more with
      | nil => exact .inr (.inl ⟨by simp, rfl⟩)
      | cons c rest => exact .inl ⟨_, _, rfl, rfl⟩
    · split
      · simp only [decodeData]
        split
        · split
          · exact .inl ⟨_, _, rfl, rfl⟩
          · exact .inr (.inl ⟨by simp, rfl⟩)
        · exact .inr (.inl ⟨by simp, rfl⟩)
      · split
        · simp only [decodeWindow]
          split
          · exact .inl ⟨_, _, rfl, rfl⟩
          · exact .inr (.inl ⟨by simp, rfl⟩)
        · exact .inl ⟨_, _, rfl, rfl⟩

/-- The decoder of the request port gives no emitted-frame row. -/
theorem decodeRequest_port {bytes rest : List Byte} {i : Instr} (h : decodeRequest bytes = .instr i rest) :
    i.port = .request := by
  obtain ⟨j, r, hj, hp⟩ | ⟨-, hj⟩ | ⟨-, hj⟩ := decodeRequest_cases bytes <;> rw [hj] at h <;> cases h
  exact hp

end Sys2Proof
end

