-- ==== Sys2Proof/Laws/HostOps.lean ====
section
/-! SUPPORT. The small lemmas of the host's operations. -/

namespace Sys2Proof.Machine

/-- The clip is the exact minimum, on a panel whose extent fits 16 bits or not (R155). -/
theorem clip_toNat (limit : Nat) (origin extent : Half) :
    (clip limit origin extent).toNat = min extent.toNat (limit - origin.toNat) := by
  have := extent.isLt
  simp only [clip, BitVec.toNat_ofNat]
  omega

/-- In 16-bit mode a host operation's plan is its expansion (R153). -/
@[simp] theorem plan_bits16 (hp : HostParams) (p : Params) (choice : Nat → StreamChoice) (op : HostOp) :
    op.plan hp p .bits16 choice = op.expansion hp p choice := rfl

@[simp] theorem wf_instr_cmd (c : Byte) : (Request.cmd c).instr.wf = true := rfl

@[simp] theorem wf_instr_setWindow (x y w h : Half) : (Request.setWindow x y w h).instr.wf = true := rfl

@[simp] theorem wf_instr_data (payload : List Byte) :
    (Request.data payload).instr.wf = decide (payload.length ≤ maxDataLen) := rfl

/-- What issuing a request can do: nothing, or run the block with the request at its port (R30). -/
theorem issue_cases (patience : Nat) (r : Request) (d : Driver) :
    ((r.instr.wf = true ∧ d.block.phase = .idle ∧ d.block.port = []) ∧ d.issue patience r =
      ((serve patience (d.block.present r)).responses[d.block.responses.length]?,
        { d with block := serve patience (d.block.present r) })) ∨
    (¬(r.instr.wf = true ∧ d.block.phase = .idle ∧ d.block.port = []) ∧ d.issue patience r = (none, d)) := by
  unfold Driver.issue
  split
  · exact .inl ⟨‹_›, rfl⟩
  · exact .inr ⟨‹_›, rfl⟩

@[simp] theorem requestsOf_append (as bs : List HostAction) :
    requestsOf (as ++ bs) = requestsOf as ++ requestsOf bs := by
  induction as with
  | nil => rfl
  | cons a as ih => cases a <;> simp [requestsOf, ih]

/-- Cutting a stream loses and moves nothing (R154). -/
theorem splitStream_flatten (cuts : List Nat) (bytes : List Byte) : (splitStream cuts bytes).flatten = bytes := by
  induction cuts generalizing bytes with
  | nil => cases bytes <;> simp [splitStream]
  | cons n ns ih => cases bytes <;> simp [splitStream, ih]

/-- No cut payload is empty (R154). -/
theorem nil_not_mem_splitStream (cuts : List Nat) (bytes : List Byte) : [] ∉ splitStream cuts bytes := by
  induction cuts generalizing bytes with
  | nil => cases bytes <;> simp [splitStream]
  | cons n ns ih => cases bytes <;> simp [splitStream, ih]

/-- A scaled channel fits its field (R152). -/
theorem scaled_lt (c : Byte) : scaled 4 c < 16 ∧ scaled 5 c < 32 ∧ scaled 6 c < 64 := by
  have := c.isLt
  simp only [scaled]
  omega

end Sys2Proof.Machine
end

