-- ==== Sys2Proof/Laws/State.lean ====
section
/-! SUPPORT. What each named update of the state does to each field: one lemma a field an update. -/

namespace Sys2Proof.Machine

variable (s : State)

@[simp] theorem State.respond_dc (r : Response) : (s.respond r).dc = s.dc := rfl
@[simp] theorem State.respond_phase (r : Response) : (s.respond r).phase = .idle := rfl
@[simp] theorem State.respond_req (r : Response) : (s.respond r).req = none := rfl
@[simp] theorem State.respond_trace (r : Response) : (s.respond r).trace = s.trace := rfl
@[simp] theorem State.respond_params (r : Response) : (s.respond r).params = s.params := rfl
@[simp] theorem State.respond_port (r : Response) : (s.respond r).port = s.port := rfl
@[simp] theorem State.respond_answers (r : Response) : (s.respond r).answers = s.answers := rfl
@[simp] theorem State.respond_draws (r : Response) : (s.respond r).draws = s.draws := rfl
@[simp] theorem State.respond_responses (r : Response) : (s.respond r).responses = s.responses ++ [r] := rfl

@[simp] theorem State.raiseInvalidArgument_dc : (s.raiseInvalidArgument).dc = s.dc := rfl
@[simp] theorem State.raiseInvalidArgument_phase : (s.raiseInvalidArgument).phase = .idle := rfl
@[simp] theorem State.raiseInvalidArgument_req : (s.raiseInvalidArgument).req = none := rfl
@[simp] theorem State.raiseInvalidArgument_trace : (s.raiseInvalidArgument).trace = s.trace := rfl
@[simp] theorem State.raiseInvalidArgument_params : (s.raiseInvalidArgument).params = s.params := rfl
@[simp] theorem State.raiseInvalidArgument_port : (s.raiseInvalidArgument).port = s.port := rfl
@[simp] theorem State.raiseInvalidArgument_answers : (s.raiseInvalidArgument).answers = s.answers := rfl
@[simp] theorem State.raiseInvalidArgument_draws : (s.raiseInvalidArgument).draws = s.draws := rfl
@[simp] theorem State.raiseInvalidArgument_responses : (s.raiseInvalidArgument).responses = s.responses ++ [.invalidArgument] := rfl

@[simp] theorem State.raiseTransportFailure_dc (e : TransportError) : (s.raiseTransportFailure e).dc = s.dc := rfl
@[simp] theorem State.raiseTransportFailure_phase (e : TransportError) : (s.raiseTransportFailure e).phase = .idle := rfl
@[simp] theorem State.raiseTransportFailure_req (e : TransportError) : (s.raiseTransportFailure e).req = none := rfl
@[simp] theorem State.raiseTransportFailure_trace (e : TransportError) : (s.raiseTransportFailure e).trace = s.trace := rfl
@[simp] theorem State.raiseTransportFailure_params (e : TransportError) : (s.raiseTransportFailure e).params = s.params := rfl
@[simp] theorem State.raiseTransportFailure_port (e : TransportError) : (s.raiseTransportFailure e).port = s.port := rfl
@[simp] theorem State.raiseTransportFailure_answers (e : TransportError) : (s.raiseTransportFailure e).answers = s.answers := rfl
@[simp] theorem State.raiseTransportFailure_draws (e : TransportError) : (s.raiseTransportFailure e).draws = s.draws := rfl
@[simp] theorem State.raiseTransportFailure_responses (e : TransportError) : (s.raiseTransportFailure e).responses = s.responses ++ [.transportFailure e] := rfl

@[simp] theorem State.accept_dc (r : Request) (first : Phase) : (s.accept r first).dc = s.dc := rfl
@[simp] theorem State.accept_phase (r : Request) (first : Phase) : (s.accept r first).phase = first := rfl
@[simp] theorem State.accept_req (r : Request) (first : Phase) : (s.accept r first).req = some r := rfl
@[simp] theorem State.accept_trace (r : Request) (first : Phase) : (s.accept r first).trace = s.trace := rfl
@[simp] theorem State.accept_params (r : Request) (first : Phase) : (s.accept r first).params = s.params := rfl
@[simp] theorem State.accept_port (r : Request) (first : Phase) : (s.accept r first).port = s.port := rfl
@[simp] theorem State.accept_answers (r : Request) (first : Phase) : (s.accept r first).answers = s.answers := rfl
@[simp] theorem State.accept_draws (r : Request) (first : Phase) : (s.accept r first).draws = s.draws := rfl
@[simp] theorem State.accept_responses (r : Request) (first : Phase) : (s.accept r first).responses = s.responses := rfl

@[simp] theorem State.driveSelect_dc (l : Level) : (s.driveSelect l).dc = selectLineOf l := rfl
@[simp] theorem State.driveSelect_phase (l : Level) : (s.driveSelect l).phase = s.phase := rfl
@[simp] theorem State.driveSelect_req (l : Level) : (s.driveSelect l).req = s.req := rfl
@[simp] theorem State.driveSelect_trace (l : Level) : (s.driveSelect l).trace = s.trace := rfl
@[simp] theorem State.driveSelect_params (l : Level) : (s.driveSelect l).params = s.params := rfl
@[simp] theorem State.driveSelect_port (l : Level) : (s.driveSelect l).port = s.port := rfl
@[simp] theorem State.driveSelect_answers (l : Level) : (s.driveSelect l).answers = s.answers := rfl
@[simp] theorem State.driveSelect_draws (l : Level) : (s.driveSelect l).draws = s.draws := rfl
@[simp] theorem State.driveSelect_responses (l : Level) : (s.driveSelect l).responses = s.responses := rfl

@[simp] theorem State.consulted_dc : (s.consulted).dc = s.dc := rfl
@[simp] theorem State.consulted_phase : (s.consulted).phase = s.phase := rfl
@[simp] theorem State.consulted_req : (s.consulted).req = s.req := rfl
@[simp] theorem State.consulted_trace : (s.consulted).trace = s.trace := rfl
@[simp] theorem State.consulted_params : (s.consulted).params = s.params := rfl
@[simp] theorem State.consulted_port : (s.consulted).port = s.port := rfl
@[simp] theorem State.consulted_answers : (s.consulted).answers = s.answers.tail := rfl
@[simp] theorem State.consulted_draws : (s.consulted).draws = s.draws + 1 := rfl
@[simp] theorem State.consulted_responses : (s.consulted).responses = s.responses := rfl

@[simp] theorem State.record_dc (f : Frame) : (s.record f).dc = s.dc := rfl
@[simp] theorem State.record_phase (f : Frame) : (s.record f).phase = s.phase := rfl
@[simp] theorem State.record_req (f : Frame) : (s.record f).req = s.req := rfl
@[simp] theorem State.record_trace (f : Frame) : (s.record f).trace = s.trace ++ [f] := rfl
@[simp] theorem State.record_params (f : Frame) : (s.record f).params = s.params := rfl
@[simp] theorem State.record_port (f : Frame) : (s.record f).port = s.port := rfl
@[simp] theorem State.record_answers (f : Frame) : (s.record f).answers = s.answers := rfl
@[simp] theorem State.record_draws (f : Frame) : (s.record f).draws = s.draws := rfl
@[simp] theorem State.record_responses (f : Frame) : (s.record f).responses = s.responses := rfl

end Sys2Proof.Machine
end

