-- ==== Sys2Proof/Laws/Ops.lean ====
section
/-! SUPPORT. What each shared operation can do, said once: the transaction, the fetch and the step. -/

namespace Sys2Proof.Machine

variable {s t : State}

/-- The select level a frame sets is never Unknown (R23). -/
theorem selectLineOf_ne_unknown (l : Level) : selectLineOf l ≠ .unknown := by
  cases l <;> decide

@[simp] theorem selectLineOf_command : selectLineOf .command = .command := rfl
@[simp] theorem selectLineOf_data : selectLineOf .data = .data := rfl

theorem nextAnswer_cons {a : TransportAnswer} {rest : List TransportAnswer} (h : s.answers = a :: rest) :
    s.nextAnswer = a := by
  simp only [State.nextAnswer, h]

theorem nextAnswer_nil (h : s.answers = []) : s.nextAnswer = Config.transportAnswer s.draws := by
  simp only [State.nextAnswer, h]

theorem advance_to_idle (h : s.phase.onOk = .idle) : s.advance = s.respond .ok := by
  simp only [State.advance, h, if_true]

theorem advance_to_phase (h : s.phase.onOk ≠ .idle) : s.advance = { s with phase := s.phase.onOk } := by
  simp only [State.advance, h, if_false]

/-- A transaction the transport has not answered leaves the block in its phase (R199). -/
theorem emit_of_pending (l : Level) (bytes : List Byte) (h : s.nextAnswer = .pending) :
    s.emit l bytes = { s with dc := selectLineOf l, answers := s.answers.tail, draws := s.draws + 1 } := by
  simp only [State.emit, h]; rfl

/-- A failed frame is recorded and ends the request with the transport's error (R109, R132). -/
theorem emit_of_err {e : TransportError} (l : Level) (bytes : List Byte) (h : s.nextAnswer = .err e) :
    s.emit l bytes =
      { s with dc := selectLineOf l, answers := s.answers.tail, draws := s.draws + 1, phase := .idle, req := none,
               trace := s.trace ++ [⟨l, bytes, .err e⟩], responses := s.responses ++ [.transportFailure e] } := by
  simp only [State.emit, h]; rfl

/-- A carried frame of a phase that another follows is recorded and leads there (R128 to R130). -/
theorem emit_of_ok_phase (l : Level) (bytes : List Byte) (h : s.nextAnswer = .ok) (hp : s.phase.onOk ≠ .idle) :
    s.emit l bytes =
      { s with dc := selectLineOf l, answers := s.answers.tail, draws := s.draws + 1, phase := s.phase.onOk,
               trace := s.trace ++ [⟨l, bytes, .ok⟩] } := by
  simp only [State.emit, h]
  rw [advance_to_phase (by simpa using hp)]
  rfl

/-- A carried frame of a request's last phase is recorded and ends the request with `Ok` (R103, R107, R131). -/
theorem emit_of_ok_idle (l : Level) (bytes : List Byte) (h : s.nextAnswer = .ok) (hp : s.phase.onOk = .idle) :
    s.emit l bytes =
      { s with dc := selectLineOf l, answers := s.answers.tail, draws := s.draws + 1, phase := .idle, req := none,
               trace := s.trace ++ [⟨l, bytes, .ok⟩], responses := s.responses ++ [.ok] } := by
  simp only [State.emit, h]
  rw [advance_to_idle (by simpa using hp)]
  rfl

/-- Everything a transaction can do. -/
theorem emit_cases (l : Level) (bytes : List Byte) (s : State) :
    (s.nextAnswer = .pending ∧
      s.emit l bytes = { s with dc := selectLineOf l, answers := s.answers.tail, draws := s.draws + 1 }) ∨
    (s.nextAnswer = .ok ∧ s.phase.onOk ≠ .idle ∧
      s.emit l bytes =
        { s with dc := selectLineOf l, answers := s.answers.tail, draws := s.draws + 1, phase := s.phase.onOk,
                 trace := s.trace ++ [⟨l, bytes, .ok⟩] }) ∨
    (s.nextAnswer = .ok ∧ s.phase.onOk = .idle ∧
      s.emit l bytes =
        { s with dc := selectLineOf l, answers := s.answers.tail, draws := s.draws + 1, phase := .idle, req := none,
                 trace := s.trace ++ [⟨l, bytes, .ok⟩], responses := s.responses ++ [.ok] }) ∨
    (∃ e, s.nextAnswer = .err e ∧
      s.emit l bytes =
        { s with dc := selectLineOf l, answers := s.answers.tail, draws := s.draws + 1, phase := .idle, req := none,
                 trace := s.trace ++ [⟨l, bytes, .err e⟩], responses := s.responses ++ [.transportFailure e] }) := by
  cases h : s.nextAnswer with
  | pending => exact .inl ⟨rfl, emit_of_pending l bytes h⟩
  | ok =>
    by_cases hp : s.phase.onOk = .idle
    · exact .inr (.inr (.inl ⟨rfl, hp, emit_of_ok_idle l bytes h hp⟩))
    · exact .inr (.inl ⟨rfl, hp, emit_of_ok_phase l bytes h hp⟩)
  | err e => exact .inr (.inr (.inr ⟨e, rfl, emit_of_err l bytes h⟩))

@[simp] theorem emit_params (l : Level) (bytes : List Byte) (s : State) : (s.emit l bytes).params = s.params := by
  obtain ⟨-, h⟩ | ⟨-, -, h⟩ | ⟨-, -, h⟩ | ⟨e, -, h⟩ := emit_cases l bytes s <;> rw [h]

@[simp] theorem emit_port (l : Level) (bytes : List Byte) (s : State) : (s.emit l bytes).port = s.port := by
  obtain ⟨-, h⟩ | ⟨-, -, h⟩ | ⟨-, -, h⟩ | ⟨e, -, h⟩ := emit_cases l bytes s <;> rw [h]

@[simp] theorem emit_dc (l : Level) (bytes : List Byte) (s : State) : (s.emit l bytes).dc = selectLineOf l := by
  obtain ⟨-, h⟩ | ⟨-, -, h⟩ | ⟨-, -, h⟩ | ⟨e, -, h⟩ := emit_cases l bytes s <;> rw [h]

/-- The accepting half of a request: what it does in IDLE. -/
def acceptance (i : Instr) (s : State) : Option State :=
  match i with
  | .cmd c => some (s.accept (.cmd c) .fCmd)
  | .data payload => some (if payload = [] then s.respond .ok else s.accept (.data payload) .fData)
  | .setWindow x y w h =>
    some (if windowValid s.params x y w h then s.accept (.setWindow x y w h) .wCasetC else s.raiseInvalidArgument)
  | .reserved _ => some s.raiseInvalidArgument
  | .casetFrame => none
  | .rasetFrame => none
  | .ramwrFrame => none

/-- A request executed in IDLE does its accepting half. -/
theorem exec_idle {i : Instr} (hp : s.phase = .idle) (hi : i.port = .request) :
    ∃ t, acceptance i s = some t ∧ exec i s = .next t := by
  cases i with
  | cmd c => exact ⟨_, rfl, by simp only [exec, execCmd, hp]⟩
  | data payload =>
    refine ⟨_, rfl, ?_⟩
    simp only [exec, execData, hp]; split <;> rfl
  | setWindow x y w h =>
    refine ⟨_, rfl, ?_⟩
    simp only [exec, execSetWindow, hp]; split <;> rfl
  | reserved op => exact ⟨_, rfl, by simp only [exec, execReserved, hp]⟩
  | casetFrame => cases hi
  | rasetFrame => cases hi
  | ramwrFrame => cases hi

/-- A step in IDLE accepts the request at the head of the port. -/
theorem step_idle {i : Instr} {rest : List Byte} (hp : s.phase = .idle) (hd : decodeRequest s.port = .instr i rest) :
    step s = exec i { s with port := rest } := by
  simp only [step, State.fetch, hp, hd]

theorem step_waiting (hp : s.phase = .idle) (hd : s.port = []) : step s = .next s := by
  simp only [step, State.fetch, hp, hd, decodeRequest]

theorem step_truncated (hp : s.phase = .idle) (hd : decodeRequest s.port = .rejected .truncated) :
    step s = .fault .truncatedRequest := by
  simp only [step, State.fetch, hp, hd]

/-- A step in a phase with its request emits that phase's frame. -/
theorem step_phase {b : FrameBody} (hb : phaseFrame s.params s.phase s.req = some b) :
    step s = .next (s.emit b.1 b.2) := by
  cases hp : s.phase <;> cases hr : s.req with
  | none => rw [hp, hr] at hb; cases hb
  | some r =>
    cases r <;> rw [hp, hr] at hb <;> simp only [phaseFrame, reduceCtorEq] at hb
    all_goals
      first
        | (cases hb; simp [step, State.fetch, hp, hr, Request.instr, exec, execCmd, execCasetFrame, execRasetFrame,
            execRamwrFrame])
        | (split at hb
           · cases hb
           · cases hb; simp_all [step, State.fetch, Request.instr, exec, execData])

/-- A phase other than IDLE that agrees with its request has a frame to emit (R24, R25). -/
theorem phaseFrame_of_agrees (h : phaseAgrees s.params s.phase s.req = true) (hp : s.phase ≠ .idle) :
    ∃ b, phaseFrame s.params s.phase s.req = some b := by
  revert h hp
  generalize s.phase = q
  generalize s.req = r
  intro h hp
  cases q <;> rcases r with _ | ⟨c⟩ | ⟨_ | ⟨b, bs⟩⟩ | ⟨x, y, w, hh⟩ <;> simp_all [phaseAgrees, phaseFrame]

/-- Everything a step that gives a next state can do: wait for a request, accept one, or emit the phase's frame. -/
theorem step_cases (h : step s = .next t) :
    (s.phase = .idle ∧ s.port = [] ∧ t = s) ∨
    (∃ i rest, s.phase = .idle ∧ decodeRequest s.port = .instr i rest ∧
      acceptance i { s with port := rest } = some t) ∨
    (∃ b, s.phase ≠ .idle ∧ phaseFrame s.params s.phase s.req = some b ∧ t = s.emit b.1 b.2) := by
  by_cases hp : s.phase = .idle
  · obtain ⟨i, rest, hd, hi⟩ | ⟨-, hd⟩ | ⟨hb, -⟩ := decodeRequest_cases s.port
    · obtain ⟨u, hu, he⟩ := exec_idle (s := { s with port := rest }) (i := i) hp hi
      rw [step_idle hp hd, he] at h
      cases h
      exact .inr (.inl ⟨i, rest, hp, hd, hu⟩)
    · rw [step_truncated hp hd] at h; cases h
    · rw [step_waiting hp hb] at h
      cases h
      exact .inl ⟨hp, hb, rfl⟩
  · refine .inr (.inr ?_)
    cases hb : phaseFrame s.params s.phase s.req with
    | some b => rw [step_phase hb] at h; cases h; exact ⟨b, hp, rfl, rfl⟩
    | none =>
      exfalso
      cases hq : s.phase <;> cases hr : s.req with
      | none => rw [hq, hr] at hb; simp_all [step, State.fetch, exec, execCasetFrame, execRasetFrame, execRamwrFrame]
      | some r =>
        cases r <;> rw [hq, hr] at hb <;>
          simp_all [phaseFrame, step, State.fetch, Request.instr, exec, execCmd, execData, execSetWindow,
            execCasetFrame, execRasetFrame, execRamwrFrame]

end Sys2Proof.Machine
end

