-- ==== Sys2Proof/Laws/PerInstr.lean ====
section
/-! SUPPORT. Statements about every instruction, one lemma a constructor. -/

namespace Sys2Proof.Laws.EncodedLength

/-- An instruction's encoding has the length the opcode table gives its row (R75). -/
def Statement (i : Instr) : Prop := ∀ p : Params, (encode p i).length = i.lengthBytes

theorem cmd (c : Byte) : Statement (.cmd c) := fun _ => rfl

theorem data (payload : List Byte) : Statement (.data payload) := fun _ => by
  simp only [encode, Instr.lengthBytes, List.length_cons, List.length_append, bytesOfLength_length]
  omega

theorem setWindow (x y w h : Half) : Statement (.setWindow x y w h) := fun _ => rfl

theorem reserved (op : Byte) : Statement (.reserved op) := fun _ => rfl

theorem casetFrame : Statement .casetFrame := fun _ => rfl

theorem rasetFrame : Statement .rasetFrame := fun _ => rfl

theorem ramwrFrame : Statement .ramwrFrame := fun _ => rfl

end Sys2Proof.Laws.EncodedLength
end

