-- ==== Sys2Proof/Laws/Run.lean ====
section
/-! SUPPORT. Runs of several steps. -/

namespace Sys2Proof.Machine

variable {s t : State} {n : Nat}

@[simp] theorem runSteps_zero (s : State) : runSteps 0 s = .next s := rfl

theorem runSteps_of_next (h : step s = .next t) : runSteps (n + 1) s = runSteps n t := by
  simp only [runSteps, h]

/-- A run that gives a next state has a first step that gives one. -/
theorem step_of_runSteps (h : runSteps (n + 1) s = .next t) : ∃ u, step s = .next u ∧ runSteps n u = .next t := by
  simp only [runSteps] at h
  cases hs : step s with
  | next u => rw [hs] at h; exact ⟨u, rfl, h⟩
  | fault f => rw [hs] at h; cases h
  | refused r => rw [hs] at h; cases h

/-- A run goes on from where its first part ends. -/
theorem runSteps_add {m n : Nat} (h : runSteps m s = .next t) : runSteps (m + n) s = runSteps n t := by
  induction m generalizing s with
  | zero => simp only [runSteps_zero, Host.Outcome.next.injEq] at h; rw [Nat.zero_add, h]
  | succ m ih =>
    obtain ⟨u, hu, hr⟩ := step_of_runSteps h
    rw [Nat.add_right_comm, runSteps_of_next hu, ih hr]

/-- One step of a run of any machine behind the host's interface, by the step's outcome. -/
theorem coreRun_of_next {M : Host.Core} {u v : M.State} (h : M.step u = .next v) : M.run (n + 1) u = M.run n v := by
  simp only [Host.Core.run, h]

theorem coreRun_of_fault {M : Host.Core} {u : M.State} {f : M.Fault} (h : M.step u = .fault f) :
    M.run (n + 1) u = .fault f := by
  simp only [Host.Core.run, h]

theorem coreRun_of_refused {M : Host.Core} {u : M.State} {r : M.Refusal} (h : M.step u = .refused r) :
    M.run (n + 1) u = .refused r := by
  simp only [Host.Core.run, h]

/-- The model's run is the host's. -/
theorem runSteps_eq_run (n : Nat) (s : State) : runSteps n s = Host.Core.run Sys2Proof.core n s := by
  induction n generalizing s with
  | zero => rfl
  | succ n ih =>
    cases hs : step s with
    | next u => rw [runSteps_of_next hs, ih u]; exact (coreRun_of_next (M := Sys2Proof.core) hs).symm
    | fault f => simp only [runSteps, hs]; exact (coreRun_of_fault (M := Sys2Proof.core) hs).symm
    | refused r => simp only [runSteps, hs]; exact (coreRun_of_refused (M := Sys2Proof.core) hs).symm

end Sys2Proof.Machine
end

