-- ==== Sys2Proof/Tests/Slice0.lean ====
section
/-! SUPPORT. The model's own tests, each from an encoding or a vector of the spec (spec/95_test_vectors.md V1 to V46), and
the witnesses that the statements' hypotheses can be met together. -/

namespace Sys2Proof.Tests

open Sys2Proof.Machine

/-- The block out of reset with these bytes at its port and these answers from the transport. -/
def idleWith (port : List Byte) (answers : List TransportAnswer) : State :=
  { State.reset with port := port, answers := answers }

/-- The block in a phase with a latched request, its select line at Data. -/
def inPhase (q : Phase) (r : Request) (answers : List TransportAnswer) : State :=
  { State.reset with dc := .data, phase := q, req := some r, answers := answers }

/-- The window of vectors V16 and V31 to V35. -/
def window16 : Request := .setWindow 10 20 1 1

/-- The next state, where there is one. -/
def nextOf : Host.Outcome State Fault Refusal → Option State
  | .next s => some s
  | .fault _ => none
  | .refused _ => none

/-- An error of the transport. -/
def someError : TransportError := ⟨0, .inl rfl⟩

/-! ### Well-formedness: each check refuses an ill-formed term -/

theorem test_wf_refuses_payload_over_the_maximum :
    (Instr.data (List.replicate (maxDataLen + 1) 0#8)).wf = false := by
  rw [Instr.wf, List.length_replicate]
  exact decide_eq_false (Nat.not_succ_le_self maxDataLen)

theorem test_wf_refuses_reserved_with_request_header :
    (Instr.reserved 0x01#8).wf = false ∧ (Instr.reserved 0x02#8).wf = false ∧ (Instr.reserved 0x03#8).wf = false := by
  decide

theorem test_wf_accepts_reserved_headers :
    (Instr.reserved 0x00#8).wf = true ∧ (Instr.reserved 0x04#8).wf = true ∧ (Instr.reserved 0xFF#8).wf = true := by
  decide

/-! ### Decoding: words written out from R71 to R79 and the vectors' request bytes -/

/-- V1: `01 29`. -/
theorem test_decode_cmd : decodeRequest [0x01#8, 0x29#8] = .instr (.cmd 0x29#8) [] := by decide

/-- V9 and V10: a length of 1, then of 3, high byte first. -/
theorem test_decode_data :
    decodeRequest [0x02#8, 0#8, 0#8, 0#8, 0x01#8, 0xAB#8, 0x01#8] = .instr (.data [0xAB#8]) [0x01#8] ∧
    decodeRequest [0x02#8, 0#8, 0#8, 0#8, 0x03#8, 1#8, 2#8, 3#8] = .instr (.data [1#8, 2#8, 3#8]) [] := by decide

/-- V13: the length field `00 01 C2 00` is 115200. -/
theorem test_decode_data_length : lengthOfBytes 0x00#8 0x01#8 0xC2#8 0x00#8 = 115200 := by decide

/-- V24: `03 01 2C 00 0A 00 14 00 05`. -/
theorem test_decode_window :
    decodeRequest [0x03#8, 0x01#8, 0x2C#8, 0x00#8, 0x0A#8, 0x00#8, 0x14#8, 0x00#8, 0x05#8] =
      .instr (.setWindow 300#16 10#16 20#16 5#16) [] := by decide

/-- V36 to V38, and the header that is also a command byte (R81). -/
theorem test_decode_reserved :
    decodeRequest [0x00#8] = .instr (.reserved 0x00#8) [] ∧ decodeRequest [0x04#8] = .instr (.reserved 0x04#8) [] ∧
    decodeRequest [0xFF#8] = .instr (.reserved 0xFF#8) [] ∧
    decodeRequest [0x2A#8] = .instr (.reserved 0x2A#8) [] := by decide

/-- R77: nothing is read from a truncated request, nor from no bytes. -/
theorem test_decode_truncated :
    decodeRequest [0x01#8] = .rejected .truncated ∧
    decodeRequest [0x02#8, 0#8, 0#8, 0#8, 0x02#8, 0x11#8] = .rejected .truncated ∧
    decodeRequest [0x03#8, 0#8, 0#8, 0#8, 0#8, 0#8, 0#8, 0#8] = .rejected .truncated ∧
    decodeRequest [] = .rejected .noBytes := by decide

/-- R79, R8: the emitted command frames; another byte is a CMD request's frame (R104). -/
theorem test_decode_frames :
    decodeCommandFrame Params.default [0x2A#8] = .instr .casetFrame [] ∧
    decodeCommandFrame Params.default [0x2B#8] = .instr .rasetFrame [] ∧
    decodeCommandFrame Params.default [0x2C#8] = .instr .ramwrFrame [] ∧
    decodeCommandFrame Params.default [0x29#8] = .rejected .notSequencerFrame := by decide

/-- V18: `03 00 64 00 32 00 28 00 1E`; V11: `02 00 00 00 02 11 22`. -/
theorem test_encode :
    encode Params.default (.setWindow 100 50 40 30) =
      [0x03#8, 0x00#8, 0x64#8, 0x00#8, 0x32#8, 0x00#8, 0x28#8, 0x00#8, 0x1E#8] ∧
    encode Params.default (.data [0x11#8, 0x22#8]) = [0x02#8, 0#8, 0#8, 0#8, 0x02#8, 0x11#8, 0x22#8] := by decide

/-- The table words of the seven rows, the first byte in bits 7..0. -/
theorem test_table_words :
    decodeTableWord 16 0x2901 = some (.cmd 0x29#8) ∧ decodeTableWord 8 0x01 = some (.cmd 0x00#8) ∧
    decodeTableWord 40 0x0200000002 = some (.data [0#8, 0#8]) ∧ decodeTableWord 8 0x02 = some (.data []) ∧
    decodeTableWord 72 0x010001001400 = some (.reserved 0x00#8) ∧
    decodeTableWord 72 0x010001001400140003 = some (.setWindow 0x14#16 0x14#16 0x01#16 0x01#16) ∧
    decodeTableWord 8 0x00 = some (.reserved 0x00#8) ∧ decodeTableWord 8 0xFF = some (.reserved 0xFF#8) ∧
    decodeTableWord 8 0x2A = some .casetFrame ∧ decodeTableWord 8 0x2B = some .rasetFrame ∧
    decodeTableWord 8 0x2C = some .ramwrFrame := by decide

/-- Each kind of table word, placed in the reset state, is what the next step runs. -/
theorem test_placed_words_run :
    step (State.reset.withFetchWord 16 0x2901) = exec (.cmd 0x29#8) State.reset ∧
    step (State.reset.withFetchWord 8 0x02) = exec (.data []) State.reset ∧
    step (State.reset.withFetchWord 72 0x03) = exec (.setWindow 0 0 0 0) State.reset ∧
    step (State.reset.withFetchWord 8 0x00) = exec (.reserved 0x00#8) State.reset ∧
    step (State.reset.withFetchWord 8 0x2A) =
      exec .casetFrame { State.reset with phase := .wCasetC, req := some (.setWindow 0 0 0 0) } ∧
    step (State.reset.withFetchWord 8 0x2B) =
      exec .rasetFrame { State.reset with phase := .wRasetC, req := some (.setWindow 0 0 0 0) } ∧
    step (State.reset.withFetchWord 8 0x2C) =
      exec .ramwrFrame { State.reset with phase := .wRamwrC, req := some (.setWindow 0 0 0 0) } :=
  ⟨rfl, rfl, rfl, rfl, rfl, rfl, rfl⟩

/-! ### Meanings: one step each -/

/-- V1: CMD is accepted from the port. -/
theorem test_cmd_accepted :
    (nextOf (step (idleWith [0x01#8, 0x29#8] [.ok]))).map (fun s => (s.phase, s.req, s.port, s.trace)) =
      some (.fCmd, some (.cmd 0x29#8), [], []) := by decide

/-- V4: a failed command frame; `dc` ends at Command. -/
theorem test_cmd_fails :
    (nextOf (step (inPhase .fCmd (.cmd 0x36#8) [.err someError]))).map
        (fun s => (s.dc, s.trace, s.responses, s.phase, s.req)) =
      some (.command, [⟨.command, [0x36#8], .err someError⟩], [.transportFailure someError], .idle, none) := by decide

/-- V7: an empty DATA from reset: `dc` stays Unknown, no frame, `Ok`. -/
theorem test_data_empty :
    (nextOf (step (idleWith [0x02#8, 0#8, 0#8, 0#8, 0#8] []))).map (fun s => (s.dc, s.trace, s.responses, s.phase)) =
      some (.unknown, [], [.ok], .idle) := by decide

/-- V10: the bytes of a payload in index order, in one frame. -/
theorem test_data_frame :
    (nextOf (step (inPhase .fData (.data [1#8, 2#8, 3#8]) [.ok]))).map (fun s => (s.dc, s.trace, s.responses)) =
      some (.data, [⟨.data, [1#8, 2#8, 3#8], .ok⟩], [.ok]) := by decide

/-- V20: `x = PANEL_WIDTH` with `w = 0` is accepted. -/
theorem test_window_at_the_edge :
    (nextOf (exec (.setWindow 240 0 0 1) State.reset)).map (fun s => (s.phase, s.responses)) =
      some (.wCasetC, []) := by decide

/-- V28: no 16-bit wrap in the validation. -/
theorem test_window_does_not_wrap :
    (nextOf (exec (.setWindow 0xFFFF 0 2 1) State.reset)).map (fun s => (s.phase, s.dc, s.trace, s.responses)) =
      some (.idle, .unknown, [], [.invalidArgument]) := by decide

/-- V36: a reserved header. -/
theorem test_reserved :
    (nextOf (step (idleWith [0x00#8, 0x29#8] []))).map (fun s => (s.dc, s.trace, s.responses, s.port)) =
      some (.unknown, [], [.invalidArgument], [0x29#8]) := by decide

/-- V31: the column command frame fails. -/
theorem test_caset_command :
    (nextOf (step (inPhase .wCasetC window16 [.err someError]))).map (fun s => (s.dc, s.trace, s.responses, s.phase)) =
      some (.command, [⟨.command, [0x2A#8], .err someError⟩], [.transportFailure someError], .idle) := by decide

/-- V21: the column payload of a window of no extent at the origin, `00 00 FF FF`. -/
theorem test_caset_payload :
    (nextOf (step (inPhase .wCasetD (.setWindow 0 0 0 0) [.ok]))).map (fun s => (s.dc, s.trace, s.phase)) =
      some (.data, [⟨.data, [0x00#8, 0x00#8, 0xFF#8, 0xFF#8], .ok⟩], .wRasetC) := by decide

/-- V33: the row command frame. -/
theorem test_raset_command :
    (nextOf (step (inPhase .wRasetC window16 [.ok]))).map (fun s => (s.dc, s.trace, s.phase)) =
      some (.command, [⟨.command, [0x2B#8], .ok⟩], .wRasetD) := by decide

/-- V18: the row payload `00 32 00 4F`. -/
theorem test_raset_payload :
    (nextOf (step (inPhase .wRasetD (.setWindow 100 50 40 30) [.ok]))).map (fun s => (s.dc, s.trace, s.phase)) =
      some (.data, [⟨.data, [0x00#8, 0x32#8, 0x00#8, 0x4F#8], .ok⟩], .wRamwrC) := by decide

/-- V16: the memory-write frame ends the window with `Ok`. -/
theorem test_ramwr :
    (nextOf (step (inPhase .wRamwrC window16 [.ok]))).map (fun s => (s.dc, s.trace, s.responses, s.phase, s.req)) =
      some (.command, [⟨.command, [0x2C#8], .ok⟩], [.ok], .idle, none) := by decide

/-- R199: no answer, no frame, no response. -/
theorem test_ramwr_waits :
    (nextOf (step (inPhase .wRamwrC window16 [.pending]))).map (fun s => (s.dc, s.trace, s.responses, s.phase)) =
      some (.command, [], [], .wRamwrC) := by decide

/-- V24 and V25: the bounds' high bytes, on other panels. -/
theorem test_bounds :
    boundPayload 300 20 = [0x01#8, 0x2C#8, 0x01#8, 0x3F#8] ∧
    boundPayload 0 65535 = [0x00#8, 0x00#8, 0xFF#8, 0xFE#8] ∧
    windowValid { Params.default with panelWidth := 320, panelHeight := 320 } 300 10 20 5 = true := by decide

/-! ### The host's operations -/

/-- V39. -/
theorem test_pack16 :
    (Color.pack16 ⟨255, 0, 0⟩, Color.pack16 ⟨0, 255, 0⟩, Color.pack16 ⟨0, 0, 255⟩, Color.pack16 ⟨128, 128, 128⟩,
      Color.pack16 ⟨8, 4, 4⟩) = (0xF800#16, 0x07E0#16, 0x001F#16, 0x8410#16, 0x0820#16) := by decide

/-- V40. -/
theorem test_pack12_pack18 :
    (Color.pack12 ⟨255, 0, 0⟩, Color.pack18 ⟨255, 0, 0⟩, Color.pack12 ⟨128, 128, 128⟩, Color.pack18 ⟨128, 128, 128⟩) =
      (0xF00#12, 0x3F000#18, 0x888#12, 0x20820#18) := by decide

/-- Parameters of the host for tests: no rotation bits, an empty table. -/
def host0 : HostParams := HostParams.default (Vector.replicate 8 0#8) 0#8 []

/-- V42: `draw_hline(230, 5, 20)` is clipped to `WIN 230, 5, 10, 1` and 20 bytes. -/
theorem test_hline :
    (HostOp.drawHline 230 5 20 ⟨255, 0, 0⟩).plan host0 Params.default .bits16 (fun _ => StreamChoice.single) =
      .actions [.request (.setWindow 230 5 10 1),
        .request (.data (List.replicate 10 [0xF8#8, 0x00#8]).flatten)] := by decide

/-- V44 and V46. -/
theorem test_out_of_panel_and_empty :
    (HostOp.setPixel 240 0 ⟨0, 0, 0⟩).plan host0 Params.default .bits16 (fun _ => StreamChoice.single) =
      .invalidArgument ∧
    (HostOp.fillRect 5 5 0 3 ⟨0, 0, 0⟩).plan host0 Params.default .bits16 (fun _ => StreamChoice.single) =
      .actions [.request (.setWindow 5 5 0 3)] := by decide

/-- P7: the clipped bitmap. -/
theorem test_bitmap :
    (HostOp.drawBitmap 238 0 4 2 (some [1, 2, 3, 4, 5, 6, 7, 8])).plan host0 Params.default .bits16
        (fun _ => StreamChoice.single) =
      .actions [.request (.setWindow 238 0 2 2), .request (.data [0#8, 1#8, 0#8, 2#8, 0#8, 5#8, 0#8, 6#8])] := by
  decide

/-- P6: the windows of `draw_rect(10, 10, 5, 3)`. -/
theorem test_outline :
    windowsOf (outlineActions Params.default (fun _ => StreamChoice.single) 10 10 5 3 0) =
      [.setWindow 10 10 5 1, .setWindow 10 12 5 1, .setWindow 10 10 1 3, .setWindow 14 10 1 3] := by decide

/-- R82: the notation of a frame. -/
theorem test_frame_text :
    Frame.text ⟨.data, [0x00#8, 0x0A#8], .ok⟩ = ['D', ':', '0', '0', ' ', '0', 'A', ' ', 'o', 'k'] ∧
    (AsmLine.dataRepeat 2 [0x07#8, 0xE0#8]).assemble = .data [0x07#8, 0xE0#8, 0x07#8, 0xE0#8] := by decide

/-! ### Witnesses: states and operands that meet each statement's hypotheses -/

/-- The block between two requests, after one command frame. -/
def betweenRequests : State :=
  { State.reset with dc := .command, trace := [⟨.command, [0x29#8], .ok⟩], responses := [.ok], answers := [.ok] }

theorem betweenRequests_inv : betweenRequests.Inv :=
  ⟨by decide, by decide, .inl (by decide), by decide, ⟨betweenRequests.trace, by decide⟩, by decide⟩

/-- The block with the column command frame of V16 emitted, waiting for its payload frame. -/
def midWindow (answers : List TransportAnswer) : State :=
  { State.reset with dc := .command, phase := .wCasetD, req := some window16,
                     trace := [⟨.command, [0x2A#8], .ok⟩], answers := answers }

theorem midWindow_inv (answers : List TransportAnswer) : (midWindow answers).Inv :=
  ⟨rfl, rfl, .inl rfl, rfl, ⟨[], rfl⟩, rfl⟩

theorem witness_StepKeepsTheInvariant : ∃ s t : State, s.Inv ∧ step s = .next t :=
  ⟨midWindow [.ok], _, midWindow_inv _, rfl⟩

theorem witness_InvariantStatesStopOnlyOnTruncation :
    (∃ s : State, s.Inv ∧ ∃ t, step s = .next t) ∧
    (∃ s : State, s.Inv ∧ s.phase = .idle ∧ decodeRequest s.port = .rejected .truncated) :=
  ⟨⟨midWindow [.ok], midWindow_inv _, _, rfl⟩,
   ⟨idleWith [0x01#8] [], ⟨by decide, by decide, .inl (by decide), by decide, ⟨[], by decide⟩, by decide⟩, rfl,
    by decide⟩⟩

theorem witness_DecodeInvertsEncode :
    ∃ (p : Params) (i : Instr), p.commandsDistinct = true ∧ i.wf = true :=
  ⟨Params.default, .reserved 0x04#8, by decide, by decide⟩

theorem witness_EncodeInvertsDecodeRequest :
    ∃ (bytes rest : List Byte) (i : Instr), decodeRequest bytes = .instr i rest :=
  ⟨_, _, _, test_decode_data.1⟩

theorem witness_RequestLengthComesFromTheHeader :
    (∃ bytes n, requestLength bytes = some n ∧ n = bytes.length) ∧
    (∃ bytes n, requestLength bytes = some n ∧ bytes.length + 1 = n) ∧ (0x01#8 : Byte) ≠ 0x02#8 :=
  ⟨⟨[0x01#8, 0x29#8], 2, by decide⟩, ⟨[0x01#8], 2, by decide⟩, by decide⟩

theorem witness_StepRunsTheRequestAtThePort :
    ∃ (s : State) (i : Instr) (rest : List Byte), s.phase = .idle ∧ decodeRequest s.port = .instr i rest :=
  ⟨idleWith [0x01#8, 0x29#8] [], .cmd 0x29#8, [], rfl, by decide⟩

theorem witness_StepRunsWhatThePhaseSelects :
    (∃ s : State, ∃ c, s.phase = .fCmd ∧ s.req = some (.cmd c)) ∧
    (∃ s : State, ∃ payload, s.phase = .fData ∧ s.req = some (.data payload)) ∧
    (∃ s : State, s.phase = .wCasetD) ∧ (∃ s : State, s.phase = .wRasetD) ∧ (∃ s : State, s.phase = .wRamwrC) :=
  ⟨⟨inPhase .fCmd (.cmd 0) [], 0, rfl, rfl⟩, ⟨inPhase .fData (.data [1#8]) [], [1#8], rfl, rfl⟩,
   ⟨inPhase .wCasetD window16 [], rfl⟩, ⟨inPhase .wRasetD window16 [], rfl⟩, ⟨inPhase .wRamwrC window16 [], rfl⟩⟩

theorem witness_IdleBlockWithNoRequestStays : ∃ s : State, s.phase = .idle ∧ s.port = [] :=
  ⟨State.reset, rfl, rfl⟩

theorem witness_TruncatedRequestIsStuck :
    ∃ (s : State) (i : Instr) (missing : List Byte), i.wf = true ∧ i.port = .request ∧ s.phase = .idle ∧
      s.port ≠ [] ∧ missing ≠ [] ∧ s.port ++ missing = encode s.params i :=
  ⟨idleWith [0x01#8] [], .cmd 0x29#8, [0x29#8], by decide, rfl, rfl, by decide, by decide, by decide⟩

theorem witness_ReservedHeaderIsInvalidArgument :
    (∃ (s : State) (op : Byte) (rest : List Byte), s.phase = .idle ∧ s.port = op :: rest ∧ op = 0x00#8) ∧
    (∃ (s : State) (op : Byte) (rest : List Byte), s.phase = .idle ∧ s.port = op :: rest ∧ op = 0x04#8) :=
  ⟨⟨idleWith [0x00#8] [], 0x00#8, [], rfl, rfl, rfl⟩, ⟨idleWith [0x04#8] [], 0x04#8, [], rfl, rfl, rfl⟩⟩

theorem witness_CmdEmitsItsCommandFrame :
    (∃ (s : State) (c : Byte), s.phase = .fCmd ∧ s.req = some (.cmd c) ∧ s.nextAnswer = .ok) ∧
    (∃ (s : State) (c : Byte), s.phase = .fCmd ∧ s.req = some (.cmd c) ∧ s.nextAnswer = .err someError) ∧
    (∃ (s : State) (c : Byte), s.phase = .fCmd ∧ s.req = some (.cmd c) ∧ s.nextAnswer = .pending) :=
  ⟨⟨inPhase .fCmd (.cmd 0x29#8) [.ok], 0x29#8, rfl, rfl, rfl⟩,
   ⟨inPhase .fCmd (.cmd 0x29#8) [.err someError], 0x29#8, rfl, rfl, rfl⟩,
   ⟨inPhase .fCmd (.cmd 0x29#8) [.pending], 0x29#8, rfl, rfl, rfl⟩⟩

theorem witness_CmdRunsToItsResponse :
    (∃ (s : State) (c : Byte) (rest : List Byte), s.phase = .idle ∧ s.port = 0x01#8 :: c :: rest ∧
      s.nextAnswer = FrameOutcome.ok.answer) ∧
    (∃ (s : State) (c : Byte) (rest : List Byte), s.phase = .idle ∧ s.port = 0x01#8 :: c :: rest ∧
      s.nextAnswer = .pending) :=
  ⟨⟨idleWith [0x01#8, 0x29#8] [.ok], 0x29#8, [], rfl, rfl, rfl⟩,
   ⟨idleWith [0x01#8, 0x29#8] [.pending], 0x29#8, [], rfl, rfl, rfl⟩⟩

/-- Also for CmdIsLatchedInIdle, DataIsAnsweredOrLatchedInIdle (both its cases) and the second half of
DataEmitsItsDataFrame. -/
theorem witness_RequestsInIdle :
    (∃ s : State, s.phase = .idle) ∧ ((([] : List Byte)) = []) ∧ ([0xAB#8] ≠ ([] : List Byte)) :=
  ⟨⟨State.reset, rfl⟩, rfl, by decide⟩

theorem witness_DataEmitsItsDataFrame :
    (∃ (s : State) (payload : List Byte), payload ≠ [] ∧ s.phase = .fData ∧ s.req = some (.data payload) ∧
      s.nextAnswer = .ok) ∧
    (∃ (s : State) (payload : List Byte), payload ≠ [] ∧ s.phase = .fData ∧ s.req = some (.data payload) ∧
      s.nextAnswer = .err someError) ∧
    (∃ (s : State) (payload : List Byte), payload ≠ [] ∧ s.phase = .fData ∧ s.req = some (.data payload) ∧
      s.nextAnswer = .pending) :=
  ⟨⟨inPhase .fData (.data [1#8]) [.ok], [1#8], by decide, rfl, rfl, rfl⟩,
   ⟨inPhase .fData (.data [1#8]) [.err someError], [1#8], by decide, rfl, rfl, rfl⟩,
   ⟨inPhase .fData (.data [1#8]) [.pending], [1#8], by decide, rfl, rfl, rfl⟩⟩

theorem witness_DataRunsToItsResponse :
    (∃ (s : State) (payload rest : List Byte), payload = [] ∧ s.phase = .idle ∧ payload.length ≤ maxDataLen ∧
      s.port = encode s.params (.data payload) ++ rest) ∧
    (∃ (s : State) (payload rest : List Byte), payload ≠ [] ∧ s.phase = .idle ∧ payload.length ≤ maxDataLen ∧
      s.port = encode s.params (.data payload) ++ rest ∧ s.nextAnswer = FrameOutcome.ok.answer) ∧
    (∃ (s : State) (payload rest : List Byte), payload ≠ [] ∧ s.phase = .idle ∧ payload.length ≤ maxDataLen ∧
      s.port = encode s.params (.data payload) ++ rest ∧ s.nextAnswer = .pending) :=
  ⟨⟨idleWith [0x02#8, 0#8, 0#8, 0#8, 0#8] [], [], [], rfl, rfl, by decide, by decide⟩,
   ⟨idleWith [0x02#8, 0#8, 0#8, 0#8, 1#8, 0xAB#8] [.ok], [0xAB#8], [], by decide, rfl, by decide, by decide, rfl⟩,
   ⟨idleWith [0x02#8, 0#8, 0#8, 0#8, 1#8, 0xAB#8] [.pending], [0xAB#8], [], by decide, rfl, by decide, by decide,
    rfl⟩⟩

theorem witness_PayloadIsCarriedInIndexOrder :
    ∃ (s t : State) (payload : List Byte) (f : Frame), s.phase = .fData ∧ s.req = some (.data payload) ∧
      step s = .next t ∧ t.trace = s.trace ++ [f] ∧ 1 < payload.length :=
  ⟨inPhase .fData (.data [1#8, 2#8]) [.ok], _, [1#8, 2#8], ⟨.data, [1#8, 2#8], .ok⟩, rfl, rfl, rfl, rfl, by decide⟩

theorem witness_SetWindowIsValidatedExactly :
    State.reset.phase = .idle ∧ windowValid State.reset.params 240 240 0 0 = true ∧
    windowValid State.reset.params 239 239 1 1 = true ∧ windowValid State.reset.params 239 0 2 1 = false ∧
    windowValid State.reset.params 0 241 0 0 = false := by decide

theorem witness_WindowBoundsLieInThePanel :
    Params.default.panelFits = true ∧ windowValid Params.default 239 0 1 240 = true ∧
    1 ≤ (1 : Half).toNat ∧ 1 ≤ (240 : Half).toNat := by decide

theorem witness_ZeroExtentWindowsAreAccepted :
    windowValid State.reset.params 240 240 0 0 = true ∧ windowValid State.reset.params 0 0 0 0 = true ∧
    windowValid State.reset.params 1 1 0 0 = true ∧ 1 ≤ (1 : Half).toNat ∧
    (240 : Half).toNat = State.reset.params.panelWidth ∧ (240 : Half).toNat = State.reset.params.panelHeight := by
  decide

/-- For CasetFrameEmitsTheColumnFrames, RasetFrameEmitsTheRowFrames and RamwrFrameEndsTheWindow: each phase with each answer. -/
theorem witness_EmittedFrames :
    (∀ q ∈ [Phase.wCasetC, .wCasetD, .wRasetC, .wRasetD, .wRamwrC], ∀ a ∈ [TransportAnswer.ok, .err someError, .pending],
      (inPhase q window16 [a]).phase = q ∧ (inPhase q window16 [a]).req = some (.setWindow 10 20 1 1) ∧
      (inPhase q window16 [a]).nextAnswer = a) := by
  decide

theorem witness_RequestsDuringARequestAreRefused :
    (∃ s : State, s.phase ≠ .idle ∧ s.phase ≠ .fCmd ∧ s.phase ≠ .fData) ∧
    (∃ s : State, s.phase ≠ .idle ∧ s.phase = .fCmd ∧ s.req ≠ some (.cmd 0x00#8)) ∧
    (∃ s : State, s.phase ≠ .idle ∧ s.phase = .fData ∧ s.req ≠ some (.data [0x00#8])) :=
  ⟨⟨midWindow [], by decide, by decide, by decide⟩, ⟨inPhase .fCmd (.cmd 0x29#8) [], by decide, rfl, by decide⟩,
   ⟨inPhase .fData (.data [0x29#8]) [], by decide, rfl, by decide⟩⟩

theorem witness_EmittedFramesRunOnlyInTheirPhases :
    (∃ s : State, s.phase ≠ .wCasetC ∧ s.phase ≠ .wCasetD ∧ s.phase ≠ .wRasetC ∧ s.phase ≠ .wRasetD ∧
      s.phase ≠ .wRamwrC) ∧
    (∃ s : State, s.phase = .wCasetC ∧ ∀ x y w h, s.req ≠ some (.setWindow x y w h)) :=
  ⟨⟨State.reset, by decide, by decide, by decide, by decide, by decide⟩,
   ⟨{ State.reset with phase := .wCasetC }, rfl, fun _ _ _ _ h => by cases h⟩⟩

theorem witness_WindowRunEmitsItsFiveFrames :
    ∃ (s : State) (x y w h : Half) (more : List TransportAnswer), s.phase = .idle ∧
      windowValid s.params x y w h = true ∧ s.answers = [.ok, .ok, .ok, .ok, .ok] ++ more :=
  ⟨idleWith [] [.ok, .ok, .ok, .ok, .ok], 10, 20, 1, 1, [], rfl, by decide, rfl⟩

/-- The first and the last frame of the sequence fail. -/
theorem witness_WindowRunAbortsAtTheFailedFrame :
    ∀ k ∈ [0, 4], windowValid Params.default 10 20 1 1 = true ∧
      ((windowFrames Params.default 10 20 1 1)[k]?).isSome = true ∧
      (idleWith [] (List.replicate k .ok ++ [.err someError])).phase = .idle ∧
      (idleWith [] (List.replicate k .ok ++ [.err someError])).answers = List.replicate k .ok ++ .err someError :: [] := by
  decide

theorem witness_RequestRunIsItsResult :
    ∃ (s : State) (i : Instr) (rest : List Byte) (outcomes : List FrameOutcome) (more : List TransportAnswer)
      (frames : List Frame) (r : Response),
      s.phase = .idle ∧ decodeRequest s.port = .instr i rest ∧
      s.answers = outcomes.map FrameOutcome.answer ++ more ∧
      requestResult s.params i outcomes = some (frames, r) ∧ frames.length = 2 :=
  ⟨idleWith [0x03#8, 0#8, 10#8, 0#8, 20#8, 0#8, 1#8, 0#8, 1#8] [.ok, .err someError], .setWindow 10 20 1 1, [],
   [.ok, .err someError], [], _, _, rfl, by decide, by decide, rfl, by decide⟩

theorem witness_RequestsRunIsTheirResults :
    ∃ (is : List Instr) (s : State) (rest : List Byte) (outcomes : List FrameOutcome) (more : List TransportAnswer)
      (frames : List Frame) (responses : List Response),
      s.phase = .idle ∧ s.req = none ∧ (∀ i ∈ is, i.wf = true ∧ i.port = .request) ∧
      s.port = is.flatMap (encode s.params) ++ rest ∧ s.answers = outcomes.map FrameOutcome.answer ++ more ∧
      requestsResult s.params is outcomes = some (frames, responses) ∧ frames.length = 2 ∧ responses.length = 3 :=
  ⟨[.cmd 0x29#8, .reserved 0x00#8, .data [0xAB#8]],
   idleWith [0x01#8, 0x29#8, 0x00#8, 0x02#8, 0#8, 0#8, 0#8, 1#8, 0xAB#8] [.ok, .err someError], [], [.ok, .err someError], [],
   _, _, rfl, rfl, by decide, by decide, by decide, rfl, by decide, by decide⟩

/-- A step in IDLE and steps in other phases: for SelectLineIsWrittenByFramesOnly, TraceGrowsByOneFrameAtMost,
ResponsesEndTheRequest and InputsAreReadInTheirPhases. -/
theorem witness_StepsInEachKindOfPhase :
    (∃ s t : State, step s = .next t ∧ s.phase = .idle ∧ t.phase ≠ .idle) ∧
    (∃ s t : State, step s = .next t ∧ s.phase.level? = some .data) ∧
    (∃ s t : State, step s = .next t ∧ s.phase ≠ .idle ∧ t.phase = .idle) :=
  ⟨⟨idleWith [0x01#8, 0x29#8] [], _, rfl, rfl, by decide⟩, ⟨midWindow [.ok], _, rfl, rfl⟩,
   ⟨inPhase .wRamwrC window16 [.ok], _, rfl, by decide, rfl⟩⟩

theorem witness_EveryFrameHasItsWidth :
    ∃ (s t : State) (f : Frame), step s = .next t ∧ t.trace = s.trace ++ [f] ∧ f.level = .data ∧ s.phase = .wCasetD :=
  ⟨midWindow [.ok], _, ⟨.data, [0x00#8, 0x0A#8, 0x00#8, 0x0A#8], .ok⟩, rfl, by decide, rfl, rfl⟩

theorem witness_InvalidArgumentLeavesTheBlockUnchanged :
    ∃ s t : State, s.Inv ∧ step s = .next t ∧ t.responses = s.responses ++ [.invalidArgument] :=
  ⟨idleWith [0x00#8] [], _, ⟨by decide, by decide, .inl (by decide), by decide, ⟨[], by decide⟩, by decide⟩, rfl, rfl⟩

theorem witness_TransportFailureReportsTheFailedFrame :
    ∃ (s t : State) (e : TransportError), step s = .next t ∧ t.responses = s.responses ++ [.transportFailure e] :=
  ⟨midWindow [.err someError], _, someError, rfl, rfl⟩

theorem witness_ResponsesFollowTheTable :
    (∃ (s t : State) (r : Response) (i : Instr), s.Inv ∧ step s = .next t ∧ t.responses = s.responses ++ [r] ∧
      s.phase = .idle ∧ ∃ rest, decodeRequest s.port = .instr i rest) ∧
    (∃ (s t : State) (r : Response) (i : Instr), s.Inv ∧ step s = .next t ∧ t.responses = s.responses ++ [r] ∧
      ∃ q, s.phase ≠ .idle ∧ s.req = some q ∧ i = q.instr) :=
  ⟨⟨idleWith [0x00#8] [], _, .invalidArgument, .reserved 0x00#8,
    ⟨by decide, by decide, .inl (by decide), by decide, ⟨[], by decide⟩, by decide⟩, rfl, rfl, rfl, [], by decide⟩,
   ⟨midWindow [.err someError], _, .transportFailure someError, window16.instr, midWindow_inv _, rfl, rfl, window16, by decide,
    rfl, rfl⟩⟩

theorem witness_UnansweredFrameKeepsThePhase : ∃ s : State, s.Inv ∧ s.phase ≠ .idle ∧ s.nextAnswer = .pending :=
  ⟨midWindow [.pending], midWindow_inv _, by decide, rfl⟩

/-- Two states that differ in the select line, the trace and the responses. -/
theorem witness_EarlierRequestsLeaveNoState :
    ∃ s s' t : State, s.phase = s'.phase ∧ s.req = s'.req ∧ s.params = s'.params ∧ s.port = s'.port ∧
      s.answers = s'.answers ∧ s.draws = s'.draws ∧ step s = .next t ∧ s.dc ≠ s'.dc ∧ s.trace ≠ s'.trace :=
  ⟨midWindow [.ok], inPhase .wCasetD window16 [.ok], _, rfl, rfl, rfl, rfl, rfl, rfl, rfl, by decide, by decide⟩

theorem witness_HostWindowsAreValid :
    ∃ (as : List HostAction), Params.default.panelFits = true ∧
      (HostOp.setPixel 239 0 ⟨0, 0, 0⟩).plan host0 Params.default .bits16 (fun _ => StreamChoice.single) =
        .actions as ∧ Request.setWindow 239 0 1 1 ∈ requestsOf as :=
  ⟨[.request (.setWindow 239 0 1 1), .request (.data [0#8, 0#8])], by decide, by decide, by decide⟩

theorem witness_OriginOutsideThePanelIssuesNothing :
    Driver.start.block.params.panelWidth ≤ (240 : Half).toNat ∧
    Driver.start.block.params.panelHeight ≤ (240 : Half).toNat := by decide

/-- For StreamsCarryEveryByteOnce and EverySplitIsAdmitted. -/
theorem witness_Streams :
    ([1#8, 2#8] ≠ ([] : List Byte)) ∧ ([] ∉ ([[1#8], [2#8, 3#8]] : List (List Byte))) := by decide

theorem witness_ClippedBitmapTakesRowsAndColumns :
    ([1, 2, 3, 4, 5, 6, 7, 8] : List (BitVec 16)).length = 4 * 2 ∧ 2 ≤ 4 ∧ 1 < 2 := by decide

theorem witness_OutlineIsFourWindows :
    Params.default.panelFits = true ∧ originInside Params.default 239 239 = true ∧
    clip Params.default.panelWidth 239 5 ≠ 0 ∧ clip Params.default.panelHeight 239 3 ≠ 0 := by decide

theorem witness_OnlySixteenBitModeRuns : ColorMode.bits12 ≠ .bits16 ∧ ColorMode.bits18 ≠ .bits16 := by decide

/-- For the first three clauses of HostStopsAtTheFirstFailure: a request answered `Ok`, one that fails, one not answered. -/
theorem witness_IssueOutcomes :
    (({ Driver.start with block := idleWith [] [.ok] } : Driver).issue 6 (.cmd 0x29#8)).1 = some .ok ∧
    (({ Driver.start with block := idleWith [] [.err someError] } : Driver).issue 6 (.cmd 0x29#8)).1
        = some (.transportFailure someError) ∧
    (({ Driver.start with block := idleWith [] [.pending] } : Driver).issue 2 (.cmd 0x29#8)).1 = none := by decide

/-- A driver whose transport fails the first frame: performing a command gives that failure. -/
theorem witness_HostStopsAtTheFirstFailure :
    (({ Driver.start with block := idleWith [] [.err someError] } : Driver).perform 6 [.request (.cmd 0x29#8)]).1
        = .returned (.transportFailure someError) ∧
    (({ Driver.start with block := idleWith [] [.ok] } : Driver).perform 6 [.request (.cmd 0x29#8)]).1
        = .returned .ok := by decide

theorem witness_IssuedRequestGivesItsResult :
    ∃ (q : Request) (d : Driver) (outcomes : List FrameOutcome) (more : List TransportAnswer) (frames : List Frame)
      (r : Response), 6 ≤ 6 ∧ q.instr.wf = true ∧ d.block.phase = .idle ∧ d.block.req = none ∧ d.block.port = [] ∧
      d.block.answers = outcomes.map FrameOutcome.answer ++ more ∧
      requestResult d.block.params q.instr outcomes = some (frames, r) ∧ frames.length = 2 :=
  ⟨window16, { Driver.start with block := idleWith [] [.ok, .err someError] }, [.ok, .err someError], [], _, _, by decide,
   by decide, rfl, rfl, rfl, by decide, rfl, by decide⟩

/-- A panel of one pixel. -/
def pixelPanel : Params := { Params.default with panelWidth := 1, panelHeight := 1 }

/-- Host parameters with a table of two entries, one without a payload. -/
def hostTable : HostParams :=
  HostParams.default (Vector.replicate 8 0#8) 0#8 [⟨0x36#8, [0x08#8]⟩, ⟨0x21#8, []⟩]

theorem witness_InitializationEndsReady :
    ∃ (d : Driver) (n : Nat), 6 ≤ 6 ∧ d.block.params.panelFits = true ∧ d.block.phase = .idle ∧ d.block.req = none ∧
      d.block.port = [] ∧ (hostTable.initTable.all fun e => e.fits) = true ∧
      2 * (d.block.params.panelWidth * d.block.params.panelHeight) ≤ maxDataLen ∧
      d.block.answers = List.replicate n .ok ∧
      6 + 2 * hostTable.initTable.length + 2 * (d.block.params.panelWidth * d.block.params.panelHeight) ≤ n :=
  ⟨{ Driver.start with block := { State.reset with params := pixelPanel, answers := List.replicate 12 .ok } }, 12,
   by decide, by decide, rfl, rfl, rfl, by decide, by decide, rfl, by decide⟩

end Sys2Proof.Tests
end

/-! ## Proofs: the state, its invariant and its inputs (spec/10_state.md) -/

section
namespace Sys2Proof.Machine

variable {s s' t : State} {p : Params} {q : Phase} {r : Request} {b : FrameBody}

/-! ### The select line -/

/-- A line that a level has set is at that level, whatever it was at reset (R23). -/
theorem lineLevel_of_dc {l : Level} (h : s.dc = selectLineOf l) : s.lineLevel = l := by
  cases l <;> simp only [State.lineLevel, h, selectLineOf]

@[simp] theorem selectLineAfter_append_singleton (before : SelectLine) (frames : List Frame) (f : Frame) :
    selectLineAfter before (frames ++ [f]) = selectLineOf f.level := by
  cases hf : f.level <;> simp [selectLineAfter, hf]

/-! ### The errors of frames and of responses -/

@[simp] theorem frameErrors_append (as bs : List Frame) :
    frameErrors (as ++ bs) = frameErrors as ++ frameErrors bs :=
  List.filterMap_append

@[simp] theorem responseErrors_append (as bs : List Response) :
    responseErrors (as ++ bs) = responseErrors as ++ responseErrors bs :=
  List.filterMap_append

@[simp] theorem frameErrors_ok (l : Level) (bytes : List Byte) : frameErrors [⟨l, bytes, .ok⟩] = [] := rfl

@[simp] theorem frameErrors_err (l : Level) (bytes : List Byte) (e : TransportError) :
    frameErrors [⟨l, bytes, .err e⟩] = [e] := rfl

@[simp] theorem responseErrors_ok : responseErrors [.ok] = [] := rfl

@[simp] theorem responseErrors_transportFailure (e : TransportError) :
    responseErrors [.transportFailure e] = [e] := rfl

/-! ### Phases and the frames they emit -/

@[simp] theorem level?_idle : Phase.idle.level? = none := rfl

/-- The next phase of a running request agrees with the request its predecessor agrees with (R126). -/
theorem phaseAgrees_onOk {req : Option Request} (h : phaseAgrees p q req = true) (hq : q.onOk ≠ .idle) :
    phaseAgrees p q.onOk req = true := by
  cases q with
  | idle | fCmd | fData | wRamwrC => exact absurd rfl hq
  | wCasetC | wCasetD | wRasetC | wRasetD =>
    rcases req with _ | _ | _ | ⟨x, y, w, h'⟩
    case some.setWindow => exact h
    all_goals cases h

/-- Each phase that another follows emits one frame (R126). -/
theorem framesBefore_onOk (hq : q.onOk ≠ .idle) : q.onOk.framesBefore = q.framesBefore + 1 := by
  cases q with
  | idle | fCmd | fData | wRamwrC => exact absurd rfl hq
  | wCasetC | wCasetD | wRasetC | wRasetD => rfl

/-- With no request latched no phase has a frame (R25). -/
@[simp] theorem phaseFrame_none (p : Params) (q : Phase) : phaseFrame p q none = none := by
  cases q <;> rfl

/-- The frames a phase emits, one case a phase (R24, R127). -/
theorem phaseFrame_cases {req : Option Request} (h : phaseFrame p q req = some b) :
    (∃ c, q = .fCmd ∧ req = some (.cmd c) ∧ b = (.command, [c])) ∨
    (∃ payload, q = .fData ∧ req = some (.data payload) ∧ payload ≠ [] ∧ b = (.data, payload)) ∨
    (∃ x y w h, req = some (.setWindow x y w h) ∧
      ((q = .wCasetC ∧ b = (.command, [p.cmdCaset])) ∨ (q = .wCasetD ∧ b = (.data, boundPayload x w)) ∨
        (q = .wRasetC ∧ b = (.command, [p.cmdRaset])) ∨ (q = .wRasetD ∧ b = (.data, boundPayload y h)) ∨
        (q = .wRamwrC ∧ b = (.command, [p.cmdRamwr])))) := by
  unfold phaseFrame at h
  split at h
  case h_2 => split at h <;> simp_all
  case h_8 => cases h
  all_goals simp_all

/-- A phase's frame is at the phase's level (R24). -/
theorem level?_of_phaseFrame {req : Option Request} (h : phaseFrame p q req = some b) :
    q.level? = some b.1 := by
  obtain ⟨_, rfl, -, rfl⟩ | ⟨_, rfl, -, -, rfl⟩ | ⟨x, y, w, h, -, hw⟩ := phaseFrame_cases h
  · rfl
  · rfl
  · obtain ⟨rfl, rfl⟩ | ⟨rfl, rfl⟩ | ⟨rfl, rfl⟩ | ⟨rfl, rfl⟩ | ⟨rfl, rfl⟩ := hw <;> rfl

/-- A phase's frame has its format's width, whatever its outcome (R57, R78). -/
theorem widthOk_of_phaseFrame {req : Option Request} (h : phaseFrame p q req = some b) (o : FrameOutcome) :
    Frame.widthOk ⟨b.1, b.2, o⟩ = true := by
  obtain ⟨_, -, -, rfl⟩ | ⟨payload, -, -, hne, rfl⟩ | ⟨x, y, w, h, -, hw⟩ := phaseFrame_cases h
  · rfl
  · exact decide_eq_true (List.length_pos_of_ne_nil hne)
  · obtain ⟨-, rfl⟩ | ⟨-, rfl⟩ | ⟨-, rfl⟩ | ⟨-, rfl⟩ | ⟨-, rfl⟩ := hw <;> rfl

/-- A phase's frame is its request's frame at the phase's place in the sequence (R79, R126). -/
theorem requestFrames_getElem?_of_phaseFrame (ha : phaseAgrees p q (some r) = true)
    (h : phaseFrame p q (some r) = some b) : (requestFrames p r.instr)[q.framesBefore]? = some b := by
  obtain ⟨_, rfl, hr, rfl⟩ | ⟨payload, rfl, hr, hne, rfl⟩ | ⟨x, y, w, h', hr, hw⟩ := phaseFrame_cases h <;>
    cases hr
  · rfl
  · simp [requestFrames, Request.instr, Phase.framesBefore, hne]
  · have hv : windowValid p x y w h' = true := by
      obtain ⟨rfl, -⟩ | ⟨rfl, -⟩ | ⟨rfl, -⟩ | ⟨rfl, -⟩ | ⟨rfl, -⟩ := hw <;> exact ha
    simp only [requestFrames, Request.instr, hv, if_true]
    obtain ⟨rfl, rfl⟩ | ⟨rfl, rfl⟩ | ⟨rfl, rfl⟩ | ⟨rfl, rfl⟩ | ⟨rfl, rfl⟩ := hw <;> rfl

/-! ### What an acceptance and a transaction change -/

/-- Everything an acceptance can do: answer the request at once, without a transport failure, or latch it and enter
its first phase. -/
theorem acceptance_cases {i : Instr} (h : acceptance i s = some t) :
    (∃ resp, responseErrors [resp] = [] ∧ t = s.respond resp) ∨
    (∃ r first, phaseAgrees s.params first (some r) = true ∧ first.framesBefore = 0 ∧ t = s.accept r first) := by
  cases i with
  | cmd c => cases h; exact .inr ⟨_, _, rfl, rfl, rfl⟩
  | data payload =>
    cases h
    split
    · exact .inl ⟨_, rfl, rfl⟩
    · exact .inr ⟨_, _, by simpa [phaseAgrees], rfl, rfl⟩
  | setWindow x y w h' =>
    cases h
    split
    · exact .inr ⟨_, _, ‹_›, rfl, rfl⟩
    · exact .inl ⟨_, rfl, rfl⟩
  | reserved op => cases h; exact .inl ⟨_, rfl, rfl⟩
  | casetFrame | rasetFrame | ramwrFrame => cases h

theorem acceptance_dc {i : Instr} (h : acceptance i s = some t) : t.dc = s.dc := by
  obtain ⟨_, -, rfl⟩ | ⟨_, _, -, -, rfl⟩ := acceptance_cases h <;> rfl

theorem acceptance_params {i : Instr} (h : acceptance i s = some t) : t.params = s.params := by
  obtain ⟨_, -, rfl⟩ | ⟨_, _, -, -, rfl⟩ := acceptance_cases h <;> rfl

theorem acceptance_port {i : Instr} (h : acceptance i s = some t) : t.port = s.port := by
  obtain ⟨_, -, rfl⟩ | ⟨_, _, -, -, rfl⟩ := acceptance_cases h <;> rfl

theorem acceptance_answers {i : Instr} (h : acceptance i s = some t) : t.answers = s.answers := by
  obtain ⟨_, -, rfl⟩ | ⟨_, _, -, -, rfl⟩ := acceptance_cases h <;> rfl

theorem acceptance_draws {i : Instr} (h : acceptance i s = some t) : t.draws = s.draws := by
  obtain ⟨_, -, rfl⟩ | ⟨_, _, -, -, rfl⟩ := acceptance_cases h <;> rfl

@[simp] theorem emit_answers (l : Level) (bytes : List Byte) (s : State) :
    (s.emit l bytes).answers = s.answers.tail := by
  obtain ⟨-, h⟩ | ⟨-, -, h⟩ | ⟨-, -, h⟩ | ⟨e, -, h⟩ := emit_cases l bytes s <;> rw [h]

@[simp] theorem emit_draws (l : Level) (bytes : List Byte) (s : State) : (s.emit l bytes).draws = s.draws + 1 := by
  obtain ⟨-, h⟩ | ⟨-, -, h⟩ | ⟨-, -, h⟩ | ⟨e, -, h⟩ := emit_cases l bytes s <;> rw [h]

/-- The frames a transaction puts into the trace, by the transport's answer (R27). -/
def framesCarried (l : Level) (bytes : List Byte) : TransportAnswer → List Frame
  | .pending => []
  | .ok => [⟨l, bytes, .ok⟩]
  | .err e => [⟨l, bytes, .err e⟩]

/-- The responses a transaction gives in a phase, by the transport's answer (R24, R193). -/
def responsesGiven (q : Phase) : TransportAnswer → List Response
  | .pending => []
  | .ok => if q.onOk = .idle then [.ok] else []
  | .err e => [.transportFailure e]

/-- The phase after a transaction, by the transport's answer (R24, R132, R199). -/
def phaseAfter (q : Phase) : TransportAnswer → Phase
  | .pending => q
  | .ok => q.onOk
  | .err _ => .idle

/-- The latched request after a transaction in a phase, by the transport's answer (R25). -/
def requestAfter (q : Phase) (req : Option Request) : TransportAnswer → Option Request
  | .pending => req
  | .ok => if q.onOk = .idle then none else req
  | .err _ => none

@[simp] theorem emit_trace (l : Level) (bytes : List Byte) (s : State) :
    (s.emit l bytes).trace = s.trace ++ framesCarried l bytes s.nextAnswer := by
  obtain ⟨ha, h⟩ | ⟨ha, -, h⟩ | ⟨ha, -, h⟩ | ⟨e, ha, h⟩ := emit_cases l bytes s <;> simp [h, ha, framesCarried]

@[simp] theorem emit_responses (l : Level) (bytes : List Byte) (s : State) :
    (s.emit l bytes).responses = s.responses ++ responsesGiven s.phase s.nextAnswer := by
  obtain ⟨ha, h⟩ | ⟨ha, hq, h⟩ | ⟨ha, hq, h⟩ | ⟨e, ha, h⟩ := emit_cases l bytes s <;> simp [*, responsesGiven]

@[simp] theorem emit_phase (l : Level) (bytes : List Byte) (s : State) :
    (s.emit l bytes).phase = phaseAfter s.phase s.nextAnswer := by
  obtain ⟨ha, h⟩ | ⟨ha, hq, h⟩ | ⟨ha, hq, h⟩ | ⟨e, ha, h⟩ := emit_cases l bytes s <;> simp [*, phaseAfter]

@[simp] theorem emit_req (l : Level) (bytes : List Byte) (s : State) :
    (s.emit l bytes).req = requestAfter s.phase s.req s.nextAnswer := by
  obtain ⟨ha, h⟩ | ⟨ha, hq, h⟩ | ⟨ha, hq, h⟩ | ⟨e, ha, h⟩ := emit_cases l bytes s <;> simp [*, requestAfter]

/-- A step in IDLE ends where the acceptance of the request at the port does. -/
theorem step_of_acceptance {i : Instr} {rest : List Byte} (hp : s.phase = .idle)
    (hd : decodeRequest s.port = .instr i rest) (ha : acceptance i { s with port := rest } = some t) :
    step s = .next t := by
  obtain ⟨u, hu, he⟩ := exec_idle (s := { s with port := rest }) hp (decodeRequest_port hd)
  rw [step_idle hp hd, he, Option.some.inj (hu.symm.trans ha)]

/-! ### The invariant is kept -/

theorem emittedSoFar_of_req_none (h : s.req = none) : s.emittedSoFar = [] := by
  simp only [State.emittedSoFar, h]

theorem emittedSoFar_of_framesBefore_zero (h : s.phase.framesBefore = 0) : s.emittedSoFar = [] := by
  cases hr : s.req <;> simp [State.emittedSoFar, hr, h]

/-- When a phase's frame is carried and another phase follows, what the request has emitted grows by that frame
(R126). -/
theorem emittedSoFar_onOk (ha : phaseAgrees s.params s.phase s.req = true)
    (hb : phaseFrame s.params s.phase s.req = some b) (hq : s.phase.onOk ≠ .idle) (hparams : t.params = s.params)
    (hreq : t.req = s.req) (hphase : t.phase = s.phase.onOk) :
    t.emittedSoFar = s.emittedSoFar ++ [⟨b.1, b.2, .ok⟩] := by
  cases hr : s.req with
  | none => simp [hr] at hb
  | some r =>
    rw [hr] at ha hb
    have hget := requestFrames_getElem?_of_phaseFrame ha hb
    simp [State.emittedSoFar, hreq, hr, hparams, hphase, framesBefore_onOk hq, List.take_add_one, hget]

/-- In IDLE the select line holds the last frame's level (R22). -/
theorem State.Inv.line_idle (hi : s.Inv) (hp : s.phase = .idle) : s.dc = selectLineAfter .unknown s.trace :=
  hi.line.resolve_right (by simp [hp])

/-- The bytes at the port do not bear on the invariant. -/
theorem State.Inv.withPort (hi : s.Inv) (rest : List Byte) : State.Inv { s with port := rest } :=
  { hi with }

/-- Answering a request at once keeps the invariant, if the answer is no transport failure. -/
theorem State.Inv.respond {resp : Response} (hi : s.Inv) (hp : s.phase = .idle) (hr : responseErrors [resp] = []) :
    (s.respond resp).Inv where
  panel := hi.panel
  request := rfl
  line := .inl (hi.line_idle hp)
  widths := hi.widths
  progress := by rw [emittedSoFar_of_req_none rfl]; exact List.nil_suffix
  errors := by simpa [hr] using hi.errors

/-- Latching a request in IDLE keeps the invariant, if its first phase agrees with it and has no frame before it. -/
theorem State.Inv.accept {first : Phase} (hi : s.Inv) (hp : s.phase = .idle)
    (ha : phaseAgrees s.params first (some r) = true) (hf : first.framesBefore = 0) : (s.accept r first).Inv where
  panel := hi.panel
  request := ha
  line := .inl (hi.line_idle hp)
  widths := hi.widths
  progress := by rw [emittedSoFar_of_framesBefore_zero hf]; exact List.nil_suffix
  errors := hi.errors

theorem State.Inv.acceptance {i : Instr} (hi : s.Inv) (hp : s.phase = .idle)
    (h : Machine.acceptance i s = some t) : t.Inv := by
  obtain ⟨_, hr, rfl⟩ | ⟨_, _, ha, hf, rfl⟩ := acceptance_cases h
  · exact hi.respond hp hr
  · exact hi.accept hp ha hf

/-- A frame of its format's width keeps the widths of the trace (R57). -/
theorem State.Inv.widths_append {f : Frame} (hi : s.Inv) (hf : f.widthOk = true) :
    (s.trace ++ [f]).all Frame.widthOk = true := by
  simp [List.all_append, hi.widths, hf]

/-- The trace still ends with what the request has emitted when a phase's frame is carried and another phase follows. -/
theorem State.Inv.progress_onOk (hi : s.Inv) (hb : phaseFrame s.params s.phase s.req = some b)
    (hq : s.phase.onOk ≠ .idle) (hparams : t.params = s.params) (hreq : t.req = s.req)
    (hphase : t.phase = s.phase.onOk) (htrace : t.trace = s.trace ++ [⟨b.1, b.2, .ok⟩]) :
    t.emittedSoFar <:+ t.trace := by
  obtain ⟨earlier, htr⟩ := hi.progress
  rw [emittedSoFar_onOk hi.request hb hq hparams hreq hphase, htrace, ← htr, List.append_assoc]
  exact List.suffix_append ..

/-- The transaction of a phase's frame keeps the invariant, whatever the transport answers. -/
theorem State.Inv.emit (hi : s.Inv) (hb : phaseFrame s.params s.phase s.req = some b) : (s.emit b.1 b.2).Inv := by
  have hwidth := widthOk_of_phaseFrame hb
  obtain ⟨-, h⟩ | ⟨-, hq, h⟩ | ⟨-, -, h⟩ | ⟨e, -, h⟩ := emit_cases b.1 b.2 s <;> rw [h]
  · exact { hi with line := .inr (by simp [level?_of_phaseFrame hb]) }
  · exact
      { panel := hi.panel
        request := phaseAgrees_onOk hi.request hq
        line := .inl (by simp)
        widths := hi.widths_append (hwidth .ok)
        progress := hi.progress_onOk hb hq rfl rfl rfl rfl
        errors := by simp [hi.errors] }
  · exact
      { panel := hi.panel
        request := rfl
        line := .inl (by simp)
        widths := hi.widths_append (hwidth .ok)
        progress := by rw [emittedSoFar_of_req_none rfl]; exact List.nil_suffix
        errors := by simp [hi.errors] }
  · exact
      { panel := hi.panel
        request := rfl
        line := .inl (by simp)
        widths := hi.widths_append (hwidth (.err e))
        progress := by rw [emittedSoFar_of_req_none rfl]; exact List.nil_suffix
        errors := by simp [hi.errors] }

/-- Settles O3: a step waits, accepts the request at the port or carries its phase's frame, and each keeps the
invariant. -/
theorem stepKeepsTheInvariant : Obligations.StepKeepsTheInvariant := by
  intro s t hi hs
  obtain ⟨-, -, rfl⟩ | ⟨i, rest, hp, -, ha⟩ | ⟨b, -, hb, rfl⟩ := step_cases hs
  · exact hi
  · exact (hi.withPort rest).acceptance hp ha
  · exact hi.emit hb

/-! ### The select line and the inputs, step by step -/

/-- Settles O34: an acceptance leaves the select line, and a transaction sets it to its frame's level. -/
theorem selectLineIsWrittenByFramesOnly : Obligations.SelectLineIsWrittenByFramesOnly := by
  intro s t hs
  obtain ⟨hp, -, rfl⟩ | ⟨i, rest, hp, -, ha⟩ | ⟨b, hp, hb, rfl⟩ := step_cases hs
  · exact ⟨fun _ => rfl, by simp [hp]⟩
  · exact ⟨fun _ => (acceptance_dc ha :), by simp [hp]⟩
  · refine ⟨fun h => absurd h hp, fun l hl => ?_⟩
    obtain rfl : b.1 = l := Option.some.inj ((level?_of_phaseFrame hb).symm.trans hl)
    exact ⟨emit_dc .., lineLevel_of_dc (emit_dc ..)⟩

/-- Settles O43: an acceptance takes its request's bytes and no answer, a transaction one answer and no bytes. -/
theorem inputsAreReadInTheirPhases : Obligations.InputsAreReadInTheirPhases := by
  intro s t hs
  obtain ⟨hp, -, rfl⟩ | ⟨i, rest, hp, hd, ha⟩ | ⟨b, hp, -, rfl⟩ := step_cases hs
  · exact ⟨rfl, fun _ => ⟨rfl, rfl, .inl rfl⟩, fun h => absurd hp h⟩
  · have hport : t.port = rest := acceptance_port ha
    exact ⟨(acceptance_params ha :),
      fun _ => ⟨(acceptance_answers ha :), (acceptance_draws ha :), .inr ⟨i, by rw [hd, hport]⟩⟩, fun h => absurd hp h⟩
  · exact ⟨emit_params .., fun h => absurd h hp, fun _ => ⟨emit_port .., emit_answers .., emit_draws ..⟩⟩

/-! ### Earlier requests leave no state -/

/-- Two states agree on what a step may read: the phase, the latched request, the parameters and the inputs. -/
structure State.Agrees (s s' : State) : Prop where
  phase : s.phase = s'.phase
  req : s.req = s'.req
  params : s.params = s'.params
  port : s.port = s'.port
  answers : s.answers = s'.answers
  draws : s.draws = s'.draws

/-- From `s` to `t` and from `s'` to `t'` the same happens: the same frames and responses are appended, the results
agree, and a frame leaves their select lines alike. -/
structure ChangesAlike (s s' t t' : State) (frames : List Frame) (resps : List Response) : Prop where
  trace : t.trace = s.trace ++ frames
  trace' : t'.trace = s'.trace ++ frames
  responses : t.responses = s.responses ++ resps
  responses' : t'.responses = s'.responses ++ resps
  agrees : t.Agrees t'
  line : frames ≠ [] → t.dc = t'.dc

theorem State.Agrees.withPort (h : s.Agrees s') (rest : List Byte) :
    State.Agrees { s with port := rest } { s' with port := rest } :=
  { h with port := rfl }

theorem State.Agrees.nextAnswer (h : s.Agrees s') : s.nextAnswer = s'.nextAnswer := by
  simp only [State.nextAnswer, h.answers, h.draws]

/-- States that agree and gain no frame and no response have changed alike. -/
theorem State.Agrees.unchanged (h : s.Agrees s') : ChangesAlike s s' s s' [] [] where
  trace := by simp
  trace' := by simp
  responses := by simp
  responses' := by simp
  agrees := h
  line := fun hn => absurd rfl hn

theorem State.Agrees.respond (h : s.Agrees s') (resp : Response) :
    ChangesAlike s s' (s.respond resp) (s'.respond resp) [] [resp] where
  trace := by simp
  trace' := by simp
  responses := rfl
  responses' := rfl
  agrees := { h with phase := rfl, req := rfl }
  line := fun hn => absurd rfl hn

theorem State.Agrees.accept (h : s.Agrees s') (r : Request) (first : Phase) :
    ChangesAlike s s' (s.accept r first) (s'.accept r first) [] [] where
  trace := by simp
  trace' := by simp
  responses := by simp
  responses' := by simp
  agrees := { h with phase := rfl, req := rfl }
  line := fun hn => absurd rfl hn

/-- A request is accepted alike in states that agree: its validation reads the parameters only (R122). -/
theorem State.Agrees.acceptance {i : Instr} (h : s.Agrees s') (ha : Machine.acceptance i s = some t) :
    ∃ t' frames resps, Machine.acceptance i s' = some t' ∧ ChangesAlike s s' t t' frames resps := by
  cases i with
  | cmd c => cases ha; exact ⟨_, _, _, rfl, h.accept _ _⟩
  | data payload =>
    cases ha
    refine ⟨_, [], if payload = [] then [.ok] else [], rfl, ?_⟩
    split
    · exact h.respond _
    · exact h.accept _ _
  | setWindow x y w h' =>
    cases ha
    refine ⟨_, [], if windowValid s'.params x y w h' then [] else [.invalidArgument], rfl, ?_⟩
    rw [h.params]
    split
    · exact h.accept _ _
    · exact h.respond _
  | reserved op => cases ha; exact ⟨_, _, _, rfl, h.respond _⟩
  | casetFrame | rasetFrame | ramwrFrame => cases ha

/-- A transaction goes alike in states that agree, for they have the same next answer. -/
theorem State.Agrees.emit (h : s.Agrees s') (l : Level) (bytes : List Byte) :
    ChangesAlike s s' (s.emit l bytes) (s'.emit l bytes) (framesCarried l bytes s'.nextAnswer)
      (responsesGiven s'.phase s'.nextAnswer) where
  trace := by simp [h.nextAnswer]
  trace' := by simp
  responses := by simp [h.nextAnswer, h.phase]
  responses' := by simp
  agrees :=
    { phase := by simp [h.nextAnswer, h.phase]
      req := by simp [h.nextAnswer, h.phase, h.req]
      params := by simp [h.params]
      port := by simp [h.port]
      answers := by simp [h.answers]
      draws := by simp [h.draws] }
  line := by simp

/-- A step goes alike in states that agree. -/
theorem State.Agrees.step (h : s.Agrees s') (hs : Machine.step s = .next t) :
    ∃ t' frames resps, Machine.step s' = .next t' ∧ ChangesAlike s s' t t' frames resps := by
  obtain ⟨hp, hport, rfl⟩ | ⟨i, rest, hp, hd, ha⟩ | ⟨b, -, hb, rfl⟩ := step_cases hs
  · exact ⟨s', [], [], step_waiting (h.phase ▸ hp) (h.port ▸ hport), h.unchanged⟩
  · obtain ⟨t', frames, resps, ha', hc⟩ := (h.withPort rest).acceptance ha
    refine ⟨t', frames, resps, ?_, { hc with }⟩
    exact step_of_acceptance (h.phase ▸ hp) (h.port ▸ hd) ha'
  · rw [h.params, h.phase, h.req] at hb
    exact ⟨_, _, _, step_phase hb, h.emit b.1 b.2⟩

/-- Settles O42: the steps of two states that agree change them alike. -/
theorem earlierRequestsLeaveNoState : Obligations.EarlierRequestsLeaveNoState := by
  intro s s' t hphase hreq hparams hport hanswers hdraws hs
  have hagrees : s.Agrees s' := ⟨hphase, hreq, hparams, hport, hanswers, hdraws⟩
  obtain ⟨t', frames, resps, hs', hc⟩ := hagrees.step hs
  exact ⟨t', frames, resps, hs', hc.trace, hc.trace', hc.responses, hc.responses', hc.agrees.phase, hc.agrees.req,
    hc.agrees.params, hc.agrees.port, hc.agrees.answers, hc.agrees.draws, hc.line⟩

/-! ### The pixel stream -/

/-- Settles O44: what is left after the longest prefix of data frames is empty or begins with a command frame. -/
theorem pixelStreamIsTheMaximalDataRun : Obligations.PixelStreamIsTheMaximalDataRun := by
  intro trace n
  refine ⟨(trace.drop (n + 1)).dropWhile fun f => decide (f.level = .data), List.takeWhile_append_dropWhile.symm,
    fun f hf => by simpa using List.mem_takeWhile_imp hf, fun f hf => ?_⟩
  have hstop := List.head?_dropWhile_not (fun f : Frame => decide (f.level = .data)) (trace.drop (n + 1))
  rw [hf] at hstop
  cases hl : f.level with
  | command => rfl
  | data => simp [hl] at hstop

/-! ### Reset -/

/-- Settles O1: the fields of the reset state, read off its definition (R220). -/
theorem resetLeavesTheBlockIdle : Obligations.ResetLeavesTheBlockIdle :=
  ⟨rfl, rfl, rfl, rfl⟩

/-- Settles O2: with no request, no frame and no response each part of the invariant is about nothing. -/
theorem resetSatisfiesTheInvariant : Obligations.ResetSatisfiesTheInvariant where
  panel := by decide
  request := rfl
  line := .inl rfl
  widths := rfl
  progress := List.nil_suffix
  errors := rfl

/-! ### What a step executes -/

/-- A step executes what is fetched. -/
theorem step_of_fetch {i : Instr} (h : s.fetch = .run i t) : step s = exec i t := by
  simp only [step, h]

/-- Settles O10: in IDLE the request at the port is fetched. -/
theorem stepRunsTheRequestAtThePort : Obligations.StepRunsTheRequestAtThePort :=
  fun _ _ _ hp hd => step_idle hp hd

/-- Settles O11: each phase but IDLE fetches the latched request or its own emitted-frame row. -/
theorem stepRunsWhatThePhaseSelects : Obligations.StepRunsWhatThePhaseSelects := by
  intro s
  refine ⟨fun c hp hr => ?_, fun payload hp hr => ?_, fun hp => ?_, fun hp => ?_, fun hp => ?_⟩
  · exact step_of_fetch (by simp only [State.fetch, hp, hr, Request.instr])
  · exact step_of_fetch (by simp only [State.fetch, hp, hr, Request.instr])
  · obtain hp | hp := hp <;> exact step_of_fetch (by simp only [State.fetch, hp])
  · obtain hp | hp := hp <;> exact step_of_fetch (by simp only [State.fetch, hp])
  · exact step_of_fetch (by simp only [State.fetch, hp])

/-! ### Requests during a request -/

/-- CMD runs in IDLE, and in F_CMD as the latched request, only (R30). -/
theorem exec_cmd_refused {c : Byte} (hp : s.phase ≠ .idle) (h : s.phase ≠ .fCmd ∨ s.req ≠ some (.cmd c)) :
    exec (.cmd c) s = .refused .overlappingRequest := by
  cases hq : s.phase with
  | idle => exact absurd hq hp
  | fCmd => simp only [exec, execCmd, hq, if_neg (h.resolve_left (not_not_intro hq))]
  | _ => simp only [exec, execCmd, hq]

/-- DATA runs in IDLE, and in F_DATA as the latched request with a payload, only (R30, R57). -/
theorem exec_data_refused {payload : List Byte} (hp : s.phase ≠ .idle)
    (h : s.phase ≠ .fData ∨ s.req ≠ some (.data payload) ∨ payload = []) :
    exec (.data payload) s = .refused .overlappingRequest := by
  cases hq : s.phase with
  | idle => exact absurd hq hp
  | fData =>
    have hne : ¬(s.req = some (.data payload) ∧ payload ≠ []) := by
      obtain hr | hn := h.resolve_left (not_not_intro hq)
      · exact fun hc => hr hc.1
      · exact fun hc => hc.2 hn
    simp only [exec, execData, hq, if_neg hne]
  | _ => simp only [exec, execData, hq]

/-- SET_WINDOW runs in IDLE only (R30). -/
theorem exec_setWindow_refused {x y w h : Half} (hp : s.phase ≠ .idle) :
    exec (.setWindow x y w h) s = .refused .overlappingRequest := by
  cases hq : s.phase with
  | idle => exact absurd hq hp
  | _ => simp only [exec, execSetWindow, hq]

/-- RESERVED runs in IDLE only (R30). -/
theorem exec_reserved_refused {op : Byte} (hp : s.phase ≠ .idle) :
    exec (.reserved op) s = .refused .overlappingRequest := by
  cases hq : s.phase with
  | idle => exact absurd hq hp
  | _ => simp only [exec, execReserved, hq]

/-- Settles O28: one refusal a request, from the rules above. -/
theorem requestsDuringARequestAreRefused : Obligations.RequestsDuringARequestAreRefused :=
  fun _ hp => ⟨fun _ => exec_cmd_refused hp, fun _ => exec_data_refused hp, fun _ _ _ _ => exec_setWindow_refused hp,
    fun _ => exec_reserved_refused hp⟩

end Sys2Proof.Machine
end

/-! ## Proofs: memory access and ordering (spec/20_memory.md) -/

section
namespace Sys2Proof

/-- A well-formed request is read back from its encoding, whatever bytes follow it (R71 to R76). -/
theorem decodeRequest_encode {i : Instr} (p : Params) (rest : List Byte) (hw : i.wf = true) (hi : i.port = .request) :
    decodeRequest (encode p i ++ rest) = .instr i rest := by
  cases i with
  | cmd c => rfl
  | data payload =>
    have hlen := lengthOfBytes_ofNat (of_decide_eq_true hw)
    simp [encode, decodeRequest, decodeData, bytesOfLength, hlen]
  | setWindow x y w h => simp [encode, decodeRequest, decodeWindow, bytesOfHalf]
  | reserved op =>
    obtain ⟨h1, h2, h3⟩ := of_decide_eq_true hw
    simp [encode, decodeRequest, h1, h2, h3]
  | casetFrame | rasetFrame | ramwrFrame => cases hi

end Sys2Proof

namespace Sys2Proof.Machine

variable {s t : State} {p : Params} {q : Phase} {r : Request} {f : Frame} {verdict resp : Response}
  {bs : List FrameBody} {os : List FrameOutcome} {frames : List Frame} {resps : List Response}
  {more : List TransportAnswer}

/-! ### Frames in sequence -/

@[simp] theorem play_nil : play verdict [] os = some (frames, resp) ↔ frames = [] ∧ resp = verdict := by
  simp [play, eq_comm]

/-- With a frame to carry, the first outcome decides: `Err` ends the sequence, `Ok` goes on with the next frame. -/
theorem play_cons {b : FrameBody} (h : play verdict (b :: bs) os = some (frames, resp)) :
    (∃ e os', os = .err e :: os' ∧ frames = [⟨b.1, b.2, .err e⟩] ∧ resp = .transportFailure e) ∨
    (∃ os' frames', os = .ok :: os' ∧ frames = ⟨b.1, b.2, .ok⟩ :: frames' ∧
      play verdict bs os' = some (frames', resp)) := by
  cases os with
  | nil => cases h
  | cons o os' =>
    cases o with
    | err e => cases h; exact .inl ⟨e, os', rfl, rfl, rfl⟩
    | ok =>
      obtain ⟨⟨frames', resp'⟩, hplay, heq⟩ := Option.map_eq_some_iff.mp h
      cases heq
      exact .inr ⟨os', frames', rfl, rfl, hplay⟩

/-- Each frame uses one outcome. -/
theorem length_frames_le_of_play (h : play verdict bs os = some (frames, resp)) : frames.length ≤ os.length := by
  induction bs generalizing os frames with
  | nil => simp [(play_nil.mp h).1]
  | cons b bs ih =>
    obtain ⟨e, os', rfl, rfl, -⟩ | ⟨os', frames', rfl, rfl, hplay⟩ := play_cons h
    · simp
    · simpa using ih hplay

/-- The results of a list of requests are those of the first and, from the outcomes it leaves, those of the others. -/
theorem requestsResult_cons {i : Instr} {is : List Instr} (h : requestsResult p (i :: is) os = some (frames, resps)) :
    ∃ frames₁ resp frames₂ resps₂, requestResult p i os = some (frames₁, resp) ∧
      requestsResult p is (os.drop frames₁.length) = some (frames₂, resps₂) ∧
      frames = frames₁ ++ frames₂ ∧ resps = resp :: resps₂ := by
  rw [requestsResult] at h
  split at h
  case h_1 => cases h
  case h_2 frames₁ resp hfirst =>
    obtain ⟨⟨frames₂, resps₂⟩, hothers, heq⟩ := Option.map_eq_some_iff.mp h
    cases heq
    exact ⟨frames₁, resp, frames₂, resps₂, hfirst, hothers, rfl, rfl⟩

/-- Every request has one response (R190). -/
theorem length_responses_of_requestsResult {is : List Instr}
    (h : requestsResult p is os = some (frames, resps)) : resps.length = is.length := by
  induction is generalizing os frames resps with
  | nil => cases h; rfl
  | cons i is ih =>
    obtain ⟨_, _, _, _, -, hothers, -, rfl⟩ := requestsResult_cons h
    simp [ih hothers]

/-! ### The state after a run -/

@[simp] theorem selectLineAfter_nil (before : SelectLine) : selectLineAfter before [] = before := rfl

@[simp] theorem selectLineAfter_singleton (before : SelectLine) (f : Frame) :
    selectLineAfter before [f] = selectLineOf f.level :=
  selectLineAfter_append_singleton before [] f

@[simp] theorem selectLineAfter_append (before : SelectLine) (as bs : List Frame) :
    selectLineAfter before (as ++ bs) = selectLineAfter (selectLineAfter before as) bs := by
  rcases List.eq_nil_or_concat bs with rfl | ⟨bs, f, rfl⟩
  · simp
  · rw [List.concat_eq_append, ← List.append_assoc, selectLineAfter_append_singleton,
      selectLineAfter_append_singleton]

/-- Two runs one after the other are one run. -/
theorem afterRun_afterRun (s : State) (rest rest' : List Byte) (as bs : List Frame) (rs rs' : List Response) :
    afterRun (afterRun s rest as rs) rest' bs rs' = afterRun s rest' (as ++ bs) (rs ++ rs') := by
  simp [afterRun, Nat.add_assoc]

/-- An idle block that has run no request is as it was. -/
theorem afterRun_nil (hp : s.phase = .idle) (hr : s.req = none) : afterRun s s.port [] [] = s := by
  simp [afterRun, ← hp, ← hr]

/-- A frame that ends its request leaves the block as a run with that frame does. -/
theorem emit_eq_afterRun_of_err {e : TransportError} (l : Level) (bytes : List Byte) (h : s.nextAnswer = .err e) :
    s.emit l bytes = afterRun s s.port [⟨l, bytes, .err e⟩] [.transportFailure e] := by
  simp [emit_of_err l bytes h, afterRun]

theorem emit_eq_afterRun_of_ok_idle (l : Level) (bytes : List Byte) (h : s.nextAnswer = .ok)
    (hq : s.phase.onOk = .idle) : s.emit l bytes = afterRun s s.port [⟨l, bytes, .ok⟩] [.ok] := by
  simp [emit_of_ok_idle l bytes h hq, afterRun]

/-- A run from after a frame that another follows is a run with that frame at its head. -/
theorem afterRun_emit_of_ok_phase (l : Level) (bytes : List Byte) (h : s.nextAnswer = .ok)
    (hq : s.phase.onOk ≠ .idle) (rest : List Byte) (frames : List Frame) (resps : List Response) :
    afterRun (s.emit l bytes) rest frames resps = afterRun s rest (⟨l, bytes, .ok⟩ :: frames) resps := by
  have hsame : afterRun (s.emit l bytes) rest frames resps =
      afterRun (afterRun s s.port [⟨l, bytes, .ok⟩] []) rest frames resps := by
    simp [emit_of_ok_phase l bytes h hq, afterRun]
  rw [hsame, afterRun_afterRun]
  rfl

/-! ### The run of one request -/

/-- A request is latched outside IDLE only (R25). -/
theorem ne_idle_of_phaseAgrees (h : phaseAgrees p q (some r) = true) : q ≠ .idle := by
  rintro rfl
  cases h

/-- After the last phase of a request no frame of it is left (R24, R126). -/
theorem length_requestFrames_of_onOk_idle (ha : phaseAgrees p q (some r) = true) (hq : q.onOk = .idle) :
    (requestFrames p r.instr).length ≤ q.framesBefore + 1 := by
  cases q with
  | wCasetC | wCasetD | wRasetC | wRasetD => cases hq
  | idle => cases ha
  | fCmd | fData | wRamwrC =>
    cases r with
    | cmd c => simp [requestFrames, Request.instr]
    | data payload => simp only [requestFrames, Request.instr]; split <;> simp
    | setWindow x y w h =>
      simp only [requestFrames, Request.instr]
      split <;> simp_all [windowFrames, phaseAgrees, Phase.framesBefore]

/-- The request `r` is latched and runs, and `bs` are the frames it has still to carry (R126). -/
structure State.Running (s : State) (r : Request) (bs : List FrameBody) : Prop where
  req : s.req = some r
  agrees : phaseAgrees s.params s.phase (some r) = true
  remaining : (requestFrames s.params r.instr).drop s.phase.framesBefore = bs

/-- The next frame of a running request is its phase's. -/
theorem State.Running.phaseFrame (h : s.Running r bs) :
    ∃ b bs', bs = b :: bs' ∧ Machine.phaseFrame s.params s.phase s.req = some b := by
  obtain ⟨b, hb⟩ := phaseFrame_of_agrees (h.req ▸ h.agrees) (ne_idle_of_phaseAgrees h.agrees)
  obtain ⟨hlt, hget⟩ := List.getElem?_eq_some_iff.mp (requestFrames_getElem?_of_phaseFrame h.agrees (h.req ▸ hb))
  exact ⟨b, _, by rw [← h.remaining, List.drop_eq_getElem_cons hlt, hget], hb⟩

/-- After the next frame the others are left. -/
theorem State.Running.drop_succ {b : FrameBody} (h : s.Running r (b :: bs)) :
    (requestFrames s.params r.instr).drop (s.phase.framesBefore + 1) = bs := by
  rw [← List.tail_drop, h.remaining, List.tail_cons]

/-- The frame of a request's last phase is its last frame. -/
theorem State.Running.last {b : FrameBody} (h : s.Running r (b :: bs)) (hq : s.phase.onOk = .idle) : bs = [] := by
  rw [← h.drop_succ, List.drop_eq_nil_of_le (length_requestFrames_of_onOk_idle h.agrees hq)]

/-- A request goes on running when a frame that another follows is carried. -/
theorem State.Running.emit_ok {b : FrameBody} (h : s.Running r (b :: bs)) (hok : s.nextAnswer = .ok)
    (hq : s.phase.onOk ≠ .idle) : (s.emit b.1 b.2).Running r bs := by
  rw [emit_of_ok_phase _ _ hok hq]
  exact { req := h.req
          agrees := phaseAgrees_onOk h.agrees hq
          remaining := by rw [framesBefore_onOk hq, h.drop_succ] }

/-- A running request carries the frames that are left of it and is answered, as `play` says (R126, R132). -/
theorem State.Running.runSteps (h : s.Running r bs) (hos : s.answers = os.map FrameOutcome.answer ++ more)
    (hplay : play .ok bs os = some (frames, resp)) :
    Machine.runSteps frames.length s = .next (afterRun s s.port frames [resp]) := by
  induction bs generalizing s os frames with
  | nil => obtain ⟨b, bs', hnil, -⟩ := h.phaseFrame; cases hnil
  | cons b bs ih =>
    obtain ⟨_, _, heq, hb⟩ := h.phaseFrame
    cases heq
    have hstep := step_phase hb
    obtain ⟨e, os', rfl, rfl, rfl⟩ | ⟨os', frames', rfl, rfl, hplay'⟩ := play_cons hplay
    · rw [emit_eq_afterRun_of_err _ _ (nextAnswer_cons hos)] at hstep
      exact runSteps_of_next hstep
    · have hok : s.nextAnswer = .ok := nextAnswer_cons hos
      rw [List.length_cons, runSteps_of_next hstep]
      by_cases hq : s.phase.onOk = .idle
      · obtain rfl := h.last hq
        obtain ⟨rfl, rfl⟩ := play_nil.mp hplay'
        rw [emit_eq_afterRun_of_ok_idle _ _ hok hq]
        rfl
      · rw [ih (h.emit_ok hok hq) (by simp [hos]) hplay', emit_port, afterRun_emit_of_ok_phase _ _ hok hq]

/-- An acceptance answers a request that has no frame, or latches one in the phase of its first frame. -/
theorem acceptance_first {i : Instr} (h : acceptance i s = some t) :
    (requestFrames s.params i = [] ∧ t = s.respond (requestVerdict s.params i)) ∨
    (∃ r first, i = r.instr ∧ requestVerdict s.params i = .ok ∧ first.framesBefore = 0 ∧
      phaseAgrees s.params first (some r) = true ∧ t = s.accept r first) := by
  cases i with
  | cmd c => cases h; exact .inr ⟨.cmd c, _, rfl, rfl, rfl, rfl, rfl⟩
  | data payload =>
    cases h
    by_cases hn : payload = []
    · exact .inl ⟨by simp [requestFrames, hn], by simp [hn, requestVerdict]⟩
    · exact .inr ⟨.data payload, _, rfl, rfl, rfl, by simpa [phaseAgrees], if_neg hn⟩
  | setWindow x y w h' =>
    cases h
    by_cases hv : windowValid s.params x y w h' = true
    · exact .inr ⟨.setWindow x y w h', .wCasetC, rfl, by simp [requestVerdict, hv], rfl, hv, if_pos hv⟩
    · exact .inl ⟨by simp [requestFrames, hv], by simp [requestVerdict, hv, State.raiseInvalidArgument]⟩
  | reserved op => cases h; exact .inl ⟨rfl, rfl⟩
  | casetFrame | rasetFrame | ramwrFrame => cases h

/-- From IDLE a request at the port runs to its response, with the frames and the response of its result (R191). -/
theorem runSteps_request {i : Instr} {rest : List Byte} (hp : s.phase = .idle)
    (hd : decodeRequest s.port = .instr i rest) (hos : s.answers = os.map FrameOutcome.answer ++ more)
    (hres : requestResult s.params i os = some (frames, resp)) :
    runSteps (frames.length + 1) s = .next (afterRun s rest frames [resp]) := by
  obtain ⟨m, hacc, -⟩ := exec_idle (s := { s with port := rest }) hp (decodeRequest_port hd)
  rw [runSteps_of_next (step_of_acceptance hp hd hacc)]
  rw [requestResult] at hres
  obtain ⟨hnone, rfl⟩ | ⟨r, first, rfl, hverdict, hfirst, ha, rfl⟩ := acceptance_first hacc
  · rw [show requestFrames s.params i = [] from hnone] at hres
    obtain ⟨rfl, rfl⟩ := play_nil.mp hres
    simp [afterRun, State.respond]
  · rw [show requestVerdict s.params r.instr = .ok from hverdict] at hres
    have hrun : (State.accept r first { s with port := rest }).Running r (requestFrames s.params r.instr) :=
      ⟨rfl, ha, by rw [State.accept_phase, hfirst]; rfl⟩
    exact hrun.runSteps hos hres

/-! ### The run of a list of requests -/

/-- What is left of the transport's answers reports the outcomes that are left. -/
theorem drop_answers {n : Nat} (hos : s.answers = os.map FrameOutcome.answer ++ more) (hn : n ≤ os.length) :
    s.answers.drop n = (os.drop n).map FrameOutcome.answer ++ more := by
  rw [hos, List.drop_append_of_le_length (by simpa using hn), List.map_drop]

theorem runSteps_requests {is : List Instr} {rest : List Byte} (hp : s.phase = .idle) (hr : s.req = none)
    (his : ∀ i ∈ is, i.wf = true ∧ i.port = .request) (hport : s.port = is.flatMap (encode s.params) ++ rest)
    (hos : s.answers = os.map FrameOutcome.answer ++ more)
    (hres : requestsResult s.params is os = some (frames, resps)) :
    runSteps (frames.length + is.length) s = .next (afterRun s rest frames resps) := by
  induction is generalizing s os frames resps with
  | nil =>
    cases hres
    obtain rfl : s.port = rest := hport
    exact congrArg _ (afterRun_nil hp hr).symm
  | cons i is ih =>
    obtain ⟨frames₁, resp, frames₂, resps₂, hfirst, hothers, rfl, rfl⟩ := requestsResult_cons hres
    obtain ⟨⟨hw, hi⟩, his'⟩ := List.forall_mem_cons.mp his
    have hd : decodeRequest s.port = .instr i (is.flatMap (encode s.params) ++ rest) := by
      rw [hport, List.flatMap_cons, List.append_assoc, decodeRequest_encode _ _ hw hi]
    have hone := runSteps_request hp hd hos hfirst
    have hrest := ih (s := afterRun s (is.flatMap (encode s.params) ++ rest) frames₁ [resp]) rfl rfl his' rfl
      (drop_answers hos (length_frames_le_of_play hfirst)) hothers
    calc runSteps ((frames₁ ++ frames₂).length + (i :: is).length) s
        = runSteps ((frames₁.length + 1) + (frames₂.length + is.length)) s := by
          rw [List.length_append, List.length_cons]; congr 1; omega
      _ = .next (afterRun s rest (frames₁ ++ frames₂) (resp :: resps₂)) := by
          rw [runSteps_add hone, hrest, afterRun_afterRun]; rfl

/-- Settles O33: by induction over the requests, each of which runs to its response before the next is read. -/
theorem requestsRunIsTheirResults : Obligations.RequestsRunIsTheirResults :=
  fun _ _ _ _ _ _ _ hp hr his hport hos hres =>
    ⟨length_responses_of_requestsResult hres, runSteps_requests hp hr his hport hos hres⟩

/-! ### The frame a step appends -/

theorem acceptance_trace {i : Instr} (h : acceptance i s = some t) : t.trace = s.trace := by
  obtain ⟨_, -, rfl⟩ | ⟨_, _, -, -, rfl⟩ := acceptance_cases h <;> rfl

/-- A transaction puts no frame into the trace, or its frame with the outcome the transport answers (R27). -/
theorem framesCarried_cases (l : Level) (bytes : List Byte) (a : TransportAnswer) :
    framesCarried l bytes a = [] ∨ ∃ o : FrameOutcome, a = o.answer ∧ framesCarried l bytes a = [⟨l, bytes, o⟩] := by
  cases a with
  | pending => exact .inl rfl
  | ok => exact .inr ⟨.ok, rfl, rfl⟩
  | err e => exact .inr ⟨.err e, rfl, rfl⟩

/-- A step leaves the trace as it is, or carries its phase's frame and appends that with the transport's outcome. -/
theorem step_trace_cases (hs : step s = .next t) :
    t.trace = s.trace ∨
    (∃ (b : FrameBody) (o : FrameOutcome), s.phase ≠ .idle ∧ phaseFrame s.params s.phase s.req = some b ∧
      s.nextAnswer = o.answer ∧ t = s.emit b.1 b.2 ∧ t.trace = s.trace ++ [⟨b.1, b.2, o⟩]) := by
  obtain ⟨-, -, rfl⟩ | ⟨i, rest, -, -, ha⟩ | ⟨b, hp, hb, rfl⟩ := step_cases hs
  · exact .inl rfl
  · exact .inl (acceptance_trace ha :)
  · obtain hf | ⟨o, ho, hf⟩ := framesCarried_cases b.1 b.2 s.nextAnswer
    · exact .inl (by simp [hf])
    · exact .inr ⟨b, o, hp, hb, ho, rfl, by simp [hf]⟩

/-- The frame a step appends is its phase's, with the transport's outcome. -/
theorem step_of_trace_append (hs : step s = .next t) (hf : t.trace = s.trace ++ [f]) :
    ∃ (b : FrameBody) (o : FrameOutcome), phaseFrame s.params s.phase s.req = some b ∧ s.nextAnswer = o.answer ∧
      t = s.emit b.1 b.2 ∧ f = ⟨b.1, b.2, o⟩ := by
  obtain hsame | ⟨b, o, -, hb, ho, ht, happ⟩ := step_trace_cases hs
  · simp [hsame] at hf
  · exact ⟨b, o, hb, ho, ht, List.singleton_inj.mp (List.append_cancel_left (hf.symm.trans happ))⟩

/-- Settles O35: the one frame a step can append is its phase's, which is at the phase's level. -/
theorem traceGrowsByOneFrameAtMost : Obligations.TraceGrowsByOneFrameAtMost := by
  intro s t hs
  obtain hsame | ⟨b, o, hp, hb, -, -, happ⟩ := step_trace_cases hs
  · exact .inl hsame
  · exact .inr ⟨hp, _, happ, (level?_of_phaseFrame hb).symm⟩

/-! ### Widths -/

@[simp] theorem boundPayload_length (origin extent : Half) : (boundPayload origin extent).length = 4 := rfl

theorem length_bytes_of_command (hw : f.widthOk = true) (hl : f.level = .command) : f.bytes.length = 1 := by
  simpa [Frame.widthOk, hl] using hw

theorem length_bytes_of_data (hw : f.widthOk = true) (hl : f.level = .data) : 1 ≤ f.bytes.length := by
  simpa only [Frame.widthOk, hl, decide_eq_true_eq] using hw

/-- The window payload frames carry a bound pair (R57, R79). -/
theorem length_of_boundPhase {b : FrameBody} {req : Option Request} (hb : phaseFrame p q req = some b)
    (hq : q = .wCasetD ∨ q = .wRasetD) : b.2.length = 4 := by
  obtain ⟨_, rfl, -⟩ | ⟨_, rfl, -⟩ | ⟨x, y, w, h, -, hw⟩ := phaseFrame_cases hb
  · simp at hq
  · simp at hq
  · obtain ⟨rfl, -⟩ | ⟨-, rfl⟩ | ⟨rfl, -⟩ | ⟨-, rfl⟩ | ⟨rfl, -⟩ := hw
    · simp at hq
    · rfl
    · simp at hq
    · rfl
    · simp at hq

/-- The memory-write phase's frame is at the command level (R131). -/
theorem level_of_memoryWritePhase {b : FrameBody} {req : Option Request}
    (hb : phaseFrame p .wRamwrC req = some b) : b.1 = .command :=
  (Option.some.inj (level?_of_phaseFrame hb)).symm

/-- Whatever its outcome, the memory-write frame is the last of its request (R131, R132). -/
theorem phaseAfter_wRamwrC (o : FrameOutcome) : phaseAfter .wRamwrC o.answer = .idle := by
  cases o <;> rfl

/-- Settles O36: the appended frame is the phase's, which has its format's width. -/
theorem everyFrameHasItsWidth : Obligations.EveryFrameHasItsWidth := by
  intro s t f hs hf
  obtain ⟨b, o, hb, ho, rfl, rfl⟩ := step_of_trace_append hs hf
  have hwidth := widthOk_of_phaseFrame hb o
  refine ⟨length_bytes_of_command hwidth, length_bytes_of_data hwidth, length_of_boundPhase hb, fun hp => ⟨?_, ?_⟩⟩
  · exact length_bytes_of_command hwidth (level_of_memoryWritePhase (hp ▸ hb))
  · rw [emit_phase, ho, hp, phaseAfter_wRamwrC]

/-! ### Byte order -/

/-- Two bytes on the bus, high byte first, are the value they were made from (R53). -/
theorem hi8_lo8_toNat (v : Half) : (hi8 v).toNat * 256 + (lo8 v).toNat = v.toNat := by
  rw [hi8_toNat, lo8_toNat, Nat.div_add_mod']

/-- Settles O9: the four bytes are the high and low bytes of the start and of the end. -/
theorem boundsAreSentHighByteFirst : Obligations.BoundsAreSentHighByteFirst :=
  fun _ _ => ⟨_, _, _, _, rfl, hi8_lo8_toNat _, hi8_lo8_toNat _⟩

/-- In F_DATA the frame carries the latched payload (R54). -/
theorem phaseFrame_fData {b : FrameBody} {payload : List Byte}
    (hb : phaseFrame p .fData (some (.data payload)) = some b) : b = (.data, payload) := by
  rw [phaseFrame] at hb
  split at hb
  · cases hb
  · exact (Option.some.inj hb).symm

/-- Settles O21: the appended frame's bytes are the latched payload itself. -/
theorem payloadIsCarriedInIndexOrder : Obligations.PayloadIsCarriedInIndexOrder := by
  intro s t payload f hp hr hs hf
  obtain ⟨b, o, hb, -, -, rfl⟩ := step_of_trace_append hs hf
  rw [hp, hr] at hb
  obtain rfl := phaseFrame_fData hb
  exact ⟨rfl, rfl, fun i hi => ⟨by simp [payloadRead, hi], rfl⟩⟩

end Sys2Proof.Machine
end

/-! ## Proofs: encodings (spec/30_encoding.md) -/

section
namespace Sys2Proof

variable {p : Params} {i : Instr} {bytes rest : List Byte} {n : Nat}

/-! ### Decoding an encoding -/

/-- An emitted command frame is read back from its byte, since the three command bytes differ (R8, R79). -/
theorem decodeCommandFrame_encode (rest : List Byte) (hp : p.commandsDistinct = true) (hi : i.port = .transport) :
    decodeCommandFrame p (encode p i ++ rest) = .instr i rest := by
  obtain ⟨hcr, hcm, hrm⟩ := of_decide_eq_true hp
  cases i with
  | cmd | data | setWindow | reserved => cases hi
  | casetFrame => simp [encode, decodeCommandFrame]
  | rasetFrame => simp [encode, decodeCommandFrame, hcr.symm]
  | ramwrFrame => simp [encode, decodeCommandFrame, hcm.symm, hrm.symm]

/-- Settles O5: an instruction's port says which of the two decoders reads it back. -/
theorem decodeInvertsEncode : Obligations.DecodeInvertsEncode := by
  intro p i rest hp hw
  cases hi : i.port with
  | request => exact decodeRequest_encode p rest hw hi
  | transport => exact decodeCommandFrame_encode rest hp hi

/-! ### Encoding what was decoded -/

/-- CMD's operand byte is encoded as it was read (R72). -/
theorem encode_of_decodeCmd (h : decodeCmd bytes = .instr i rest) :
    i.wf = true ∧ encode p i ++ rest = 0x01#8 :: bytes := by
  cases bytes with
  | nil => cases h
  | cons c more => cases h; exact ⟨rfl, rfl⟩

/-- DATA's length field and payload are encoded as they were read (R74). -/
theorem encode_of_decodeData (h : decodeData bytes = .instr i rest) :
    i.wf = true ∧ encode p i ++ rest = 0x02#8 :: bytes := by
  rw [decodeData.eq_def] at h
  split at h
  next b3 b2 b1 b0 more =>
    split at h
    next hlen =>
      cases h
      have htake : (more.take (lengthOfBytes b3 b2 b1 b0)).length = lengthOfBytes b3 b2 b1 b0 :=
        List.length_take_of_le hlen
      exact ⟨decide_eq_true (htake.trans_le (lengthOfBytes_le b3 b2 b1 b0)),
        by simp [encode, htake, bytesOfLength_lengthOfBytes, -List.length_take]⟩
    next => cases h
  next => cases h

/-- SET_WINDOW's four fields are encoded as they were read (R73). -/
theorem encode_of_decodeWindow (h : decodeWindow bytes = .instr i rest) :
    i.wf = true ∧ encode p i ++ rest = 0x03#8 :: bytes := by
  rw [decodeWindow.eq_def] at h
  split at h
  · cases h; exact ⟨rfl, by simp [encode, bytesOfHalf]⟩
  · cases h

/-- A request that was read is well-formed, and its encoding is the bytes it was read from (R71 to R76). -/
theorem encode_of_decodeRequest (h : decodeRequest bytes = .instr i rest) :
    i.wf = true ∧ encode p i ++ rest = bytes := by
  cases bytes with
  | nil => cases h
  | cons op more =>
    rw [decodeRequest] at h
    split at h
    next hop => exact hop ▸ encode_of_decodeCmd h
    next h1 =>
      split at h
      next hop => exact hop ▸ encode_of_decodeData h
      next h2 =>
        split at h
        next hop => exact hop ▸ encode_of_decodeWindow h
        next h3 => cases h; exact ⟨decide_eq_true ⟨h1, h2, h3⟩, rfl⟩

/-- Settles O6: by the header's four cases, each of which keeps every byte it reads. -/
theorem encodeInvertsDecodeRequest : Obligations.EncodeInvertsDecodeRequest := by
  intro p bytes rest i h
  obtain ⟨hw, henc⟩ := encode_of_decodeRequest (p := p) h
  exact ⟨hw, decodeRequest_port h, henc⟩

/-! ### The length of a request -/

/-- An instruction's encoding has its row's length (R75, R78). -/
theorem encode_length (p : Params) (i : Instr) : (encode p i).length = i.lengthBytes := by
  cases i with
  | cmd c => exact Laws.EncodedLength.cmd c p
  | data payload => exact Laws.EncodedLength.data payload p
  | setWindow x y w h => exact Laws.EncodedLength.setWindow x y w h p
  | reserved op => exact Laws.EncodedLength.reserved op p
  | casetFrame => exact Laws.EncodedLength.casetFrame p
  | rasetFrame => exact Laws.EncodedLength.rasetFrame p
  | ramwrFrame => exact Laws.EncodedLength.ramwrFrame p

/-- The length read from the head of a request's encoding is the row's (R75). -/
theorem requestLength_encode (p : Params) (rest : List Byte) (hw : i.wf = true) (hi : i.port = .request) :
    requestLength (encode p i ++ rest) = some i.lengthBytes := by
  cases i with
  | cmd c => rfl
  | data payload =>
    have hlen := lengthOfBytes_ofNat (of_decide_eq_true hw)
    simp [encode, requestLength, bytesOfLength, Instr.lengthBytes, hlen]
  | setWindow x y w h => rfl
  | reserved op =>
    obtain ⟨h1, h2, h3⟩ := of_decide_eq_true hw
    simp [encode, requestLength, Instr.lengthBytes, h1, h2, h3]
  | casetFrame | rasetFrame | ramwrFrame => cases hi

/-- A length other than DATA's is the header's alone (R75). -/
theorem requestLength_of_ne_data {op : Byte} (more : List Byte) (hop : op ≠ 0x02#8) :
    requestLength (op :: more) = some (if op = 0x01#8 then 2 else if op = 0x03#8 then 9 else 1) := by
  simp only [requestLength, if_neg hop, apply_ite some]

/-- CMD is truncated only where its operand is missing (R72, R77). -/
theorem length_of_decodeCmd_truncated (h : decodeCmd bytes = .rejected .truncated) : bytes.length < 1 := by
  cases bytes with
  | nil => exact Nat.one_pos
  | cons c more => cases h

/-- SET_WINDOW is truncated only where bytes of its four fields are missing (R73, R77). -/
theorem length_of_decodeWindow_truncated (h : decodeWindow bytes = .rejected .truncated) : bytes.length < 8 := by
  rw [decodeWindow.eq_def] at h
  split at h
  next => cases h
  next hshort =>
    by_contra hlen
    exact hshort bytes[0] bytes[1] bytes[2] bytes[3] bytes[4] bytes[5] bytes[6] bytes[7] (bytes.drop 8)
      (by simp [-List.drop_one])

/-- DATA with its length field is truncated only where bytes of its payload are missing (R74, R77). -/
theorem length_of_decodeData_truncated {b3 b2 b1 b0 : Byte}
    (h : decodeData (b3 :: b2 :: b1 :: b0 :: rest) = .rejected .truncated) :
    rest.length < lengthOfBytes b3 b2 b1 b0 := by
  rw [decodeData] at h
  split at h
  · cases h
  · exact Nat.lt_of_not_le ‹_›

/-- Bytes that end inside a request are fewer than its length (R75, R77). -/
theorem length_lt_of_truncated (h : decodeRequest bytes = .rejected .truncated) (hn : requestLength bytes = some n) :
    bytes.length < n := by
  cases bytes with
  | nil => cases h
  | cons op more =>
    rw [decodeRequest] at h
    rw [requestLength.eq_def] at hn
    split at h
    next hop =>
      obtain rfl : 2 = n := by simpa [hop] using hn
      exact Nat.succ_lt_succ (length_of_decodeCmd_truncated h)
    next h1 =>
      split at h
      next hop =>
        subst hop
        simp only [reduceIte, BitVec.reduceEq] at hn
        split at hn
        next =>
          cases hn
          have := length_of_decodeData_truncated h
          simp only [List.length_cons]
          omega
        next => cases hn
      next h2 =>
        split at h
        next hop =>
          obtain rfl : 9 = n := by simpa [hop] using hn
          exact Nat.succ_lt_succ (length_of_decodeWindow_truncated h)
        next => cases h

/-- A request that was read has taken the bytes of its length, and those alone (R75). -/
theorem requestLength_of_decodeRequest (h : decodeRequest bytes = .instr i rest) (hn : requestLength bytes = some n) :
    n ≤ bytes.length ∧ rest = bytes.drop n := by
  obtain ⟨hw, rfl⟩ := encode_of_decodeRequest (p := Params.default) h
  rw [requestLength_encode _ _ hw (decodeRequest_port h), ← encode_length Params.default] at hn
  cases hn
  simp

/-- Settles O7: a request that was read has its length, and bytes that end inside one are fewer. -/
theorem requestLengthComesFromTheHeader : Obligations.RequestLengthComesFromTheHeader := by
  refine ⟨fun op more => requestLength_of_ne_data more, fun _ _ _ _ _ => rfl, fun bytes n hn => ?_⟩
  obtain ⟨i, rest, hd, -⟩ | ⟨-, hd⟩ | ⟨rfl, -⟩ := decodeRequest_cases bytes
  · obtain ⟨hle, rfl⟩ := requestLength_of_decodeRequest hd hn
    exact ⟨fun _ => ⟨i, hd⟩, fun hlt => absurd hle (Nat.not_le_of_lt hlt)⟩
  · have hlt := length_lt_of_truncated hd hn
    exact ⟨fun hle => absurd hle (Nat.not_le_of_lt hlt), fun _ => hd⟩
  · cases hn

/-- A non-empty beginning of a request's encoding, with bytes of it missing, is truncated (R77). -/
theorem decodeRequest_truncated {missing : List Byte} (hw : i.wf = true) (hi : i.port = .request) (hb : bytes ≠ [])
    (hm : missing ≠ []) (henc : bytes ++ missing = encode p i) : decodeRequest bytes = .rejected .truncated := by
  obtain ⟨j, rest, hd, hj⟩ | ⟨-, hd⟩ | ⟨hnil, -⟩ := decodeRequest_cases bytes
  · obtain ⟨hwj, hbytes⟩ := encode_of_decodeRequest (p := p) hd
    have hread : Decoded.instr j (rest ++ missing) = .instr i [] := by
      rw [← decodeRequest_encode p _ hwj hj, ← decodeRequest_encode p [] hw hi, ← List.append_assoc, hbytes, henc,
        List.append_nil]
    obtain ⟨-, hrest⟩ := Decoded.instr.inj hread
    exact absurd (List.append_eq_nil_iff.mp hrest).2 hm
  · exact hd
  · exact absurd hnil hb

/-! ### Sample words -/

/-- Settles O8: each word is computed. -/
theorem sampleWordsDecode : Obligations.SampleWordsDecode := by
  unfold Obligations.SampleWordsDecode
  decide

/-! ### Reserved headers -/

/-- Zero and the values from four up are the reserved headers (R76). -/
theorem headerReserved_of_zero_or_four_le {op : Byte} (h : op = 0x00#8 ∨ 0x04#8 ≤ op) :
    headerReserved op = true := by
  refine decide_eq_true ⟨?_, ?_, ?_⟩ <;> rintro rfl <;> revert h <;> decide

end Sys2Proof

namespace Sys2Proof.Machine

variable {s : State} {x y w h : Half} {more : List TransportAnswer}

/-! ### Where a step stops -/

/-- Settles O4: in IDLE the port's bytes decide, and in any other phase the latched request has a frame to emit. -/
theorem invariantStatesStopOnlyOnTruncation : Obligations.InvariantStatesStopOnlyOnTruncation := by
  intro s hi
  by_cases hp : s.phase = .idle
  · obtain ⟨i, rest, hd, hport⟩ | ⟨-, hd⟩ | ⟨hnil, -⟩ := decodeRequest_cases s.port
    · obtain ⟨t, ht, -⟩ := exec_idle (s := { s with port := rest }) hp hport
      exact .inl ⟨t, step_of_acceptance hp hd ht⟩
    · exact .inr ⟨hp, hd, step_truncated hp hd⟩
    · exact .inl ⟨s, step_waiting hp hnil⟩
  · obtain ⟨b, hb⟩ := phaseFrame_of_agrees hi.request hp
    exact .inl ⟨_, step_phase hb⟩

/-- Settles O13: the decoder finds the bytes truncated, and there the step stops. -/
theorem truncatedRequestIsStuck : Obligations.TruncatedRequestIsStuck :=
  fun _ _ _ hw hi hp hb hm henc => step_truncated hp (decodeRequest_truncated hw hi hb hm henc)

/-! ### A reserved header -/

theorem exec_reserved_idle (op : Byte) (hp : s.phase = .idle) :
    exec (.reserved op) s = .next s.raiseInvalidArgument := by
  simp only [exec, execReserved, hp]

/-- A reserved header at the port is consumed and answered `InvalidArgument` (R76). -/
theorem step_reserved {op : Byte} {rest : List Byte} (hp : s.phase = .idle) (hport : s.port = op :: rest)
    (hop : headerReserved op = true) :
    step s = .next (State.raiseInvalidArgument { s with port := rest }) := by
  have hd : decodeRequest s.port = .instr (.reserved op) rest :=
    hport ▸ decodeRequest_encode (i := .reserved op) s.params rest hop rfl
  rw [step_idle hp hd]
  exact exec_reserved_idle op hp

/-- Settles O14: `InvalidArgument` is answered in the state with the header byte gone from the port. -/
theorem reservedHeaderIsInvalidArgument : Obligations.ReservedHeaderIsInvalidArgument :=
  ⟨fun _ op hp => exec_reserved_idle op hp,
   fun _ _ _ hp hport hop => step_reserved hp hport (headerReserved_of_zero_or_four_le hop)⟩

/-! ### A window's five frames -/

/-- Frames that are all carried are all emitted, and the verdict stands (R79). -/
theorem play_replicate_ok (verdict : Response) (bs : List FrameBody) :
    play verdict bs (List.replicate bs.length .ok) = some (bs.map fun b => ⟨b.1, b.2, .ok⟩, verdict) := by
  induction bs with
  | nil => rfl
  | cons b bs ih => simp [List.replicate_succ, play, ih]

/-- A valid window is latched in IDLE (R126). -/
theorem exec_setWindow_valid (hp : s.phase = .idle) (hv : windowValid s.params x y w h = true) :
    exec (.setWindow x y w h) s = .next (s.accept (.setWindow x y w h) .wCasetC) := by
  simp only [exec, execSetWindow, hp, hv, if_true]

/-- A valid window that has been latched has its five frames to carry (R79, R126). -/
theorem running_setWindow (hv : windowValid s.params x y w h = true) :
    (s.accept (.setWindow x y w h) .wCasetC).Running (.setWindow x y w h) (windowFrames s.params x y w h) where
  req := rfl
  agrees := hv
  remaining := if_pos hv

/-- Settles O30: the latched window runs as its five frames are played with five outcomes `Ok`. -/
theorem windowRunEmitsItsFiveFrames : Obligations.WindowRunEmitsItsFiveFrames := by
  intro s x y w h more hp hv hanswers
  refine ⟨_, exec_setWindow_valid hp hv, ?_⟩
  have hrun := (running_setWindow hv).runSteps (os := List.replicate 5 .ok) hanswers (play_replicate_ok ..)
  simpa [afterRun, windowFrames, selectLineAfter, hanswers] using hrun

end Sys2Proof.Machine
end

/-! ## Proofs: the protocol framer (spec/40_protocol_framer.md) -/

section
namespace Sys2Proof.Machine

variable {s t : State} {i : Instr} {l : Level} {bytes payload : List Byte} {b : FrameBody} {o : FrameOutcome} {c : Byte}

/-! ### Acceptance in IDLE -/

/-- A request executed in IDLE ends where its acceptance does. -/
theorem exec_of_acceptance (hp : s.phase = .idle) (hi : i.port = .request) (ha : acceptance i s = some t) :
    exec i s = .next t := by
  obtain ⟨u, hu, he⟩ := exec_idle hp hi
  rw [he, Option.some.inj (hu.symm.trans ha)]

/-- An empty DATA is answered `Ok` at its acceptance (R105). -/
theorem acceptance_data_nil (s : State) : acceptance (.data []) s = some (s.respond .ok) :=
  congrArg some (if_pos rfl)

/-- A DATA with a payload is latched at its acceptance (R105). -/
theorem acceptance_data_of_ne_nil (s : State) (hn : payload ≠ []) :
    acceptance (.data payload) s = some (s.accept (.data payload) .fData) :=
  congrArg some (if_neg hn)

/-- Settles O15: CMD's acceptance latches it. -/
theorem cmdIsLatchedInIdle : Obligations.CmdIsLatchedInIdle :=
  fun _ _ hp => exec_of_acceptance hp rfl rfl

/-- Settles O18: DATA's acceptance depends on whether its payload is empty. -/
theorem dataIsAnsweredOrLatchedInIdle : Obligations.DataIsAnsweredOrLatchedInIdle := by
  intro s payload hp
  refine ⟨?_, fun hn => exec_of_acceptance hp rfl (acceptance_data_of_ne_nil s hn)⟩
  rintro rfl
  exact exec_of_acceptance hp rfl (acceptance_data_nil s)

/-! ### The frame of a request's own phase -/

theorem exec_cmd_fCmd (hp : s.phase = .fCmd) (hr : s.req = some (.cmd c)) :
    exec (.cmd c) s = .next (s.emit .command [c]) := by
  simp only [exec, execCmd, hp, hr, if_true]

theorem exec_data_fData (hn : payload ≠ []) (hp : s.phase = .fData) (hr : s.req = some (.data payload)) :
    exec (.data payload) s = .next (s.emit .data payload) := by
  simp only [exec, execData, hp, if_pos (And.intro hr hn)]

/-- An instruction that emits a frame carries it, and goes on to the phase that follows in R24's table, or for none to
IDLE. -/
theorem carriesFrame_of_exec {after : Option Phase} (h : exec i s = .next (s.emit l bytes))
    (hq : s.phase.onOk = after.getD .idle) (hne : after ≠ some .idle) : CarriesFrame i s l bytes after := by
  rw [CarriesFrame, h]
  refine ⟨fun ha => ?pending, fun e ha => ?err, fun q hafter ha => ?next, fun hafter ha => ?last⟩
  case pending => rw [emit_of_pending l bytes ha]
  case err => rw [emit_of_err l bytes ha]
  case next =>
    subst hafter
    obtain rfl : s.phase.onOk = q := hq
    rw [emit_of_ok_phase l bytes ha fun hidle => hne (congrArg some hidle)]
  case last =>
    subst hafter
    rw [emit_of_ok_idle l bytes ha hq]

/-- Settles O16: F_CMD emits CMD's frame, and IDLE follows. -/
theorem cmdEmitsItsCommandFrame : Obligations.CmdEmitsItsCommandFrame :=
  fun _ _ hp hr => carriesFrame_of_exec (exec_cmd_fCmd hp hr) (congrArg Phase.onOk hp) (Option.some_ne_none _).symm

/-- Settles O19: F_DATA emits DATA's frame, and IDLE follows; an empty DATA is answered at its acceptance. -/
theorem dataEmitsItsDataFrame : Obligations.DataEmitsItsDataFrame :=
  ⟨fun _ _ hn hp hr =>
      carriesFrame_of_exec (exec_data_fData hn hp hr) (congrArg Phase.onOk hp) (Option.some_ne_none _).symm,
   fun s hp => ⟨_, exec_of_acceptance hp rfl (acceptance_data_nil s), rfl, rfl, rfl⟩⟩

/-! ### From acceptance to response -/

/-- A step whose frame the transport has not answered keeps the request and gives neither frame nor response (R199). -/
theorem step_phase_of_pending (hb : phaseFrame s.params s.phase s.req = some b) (ha : s.nextAnswer = .pending) :
    ∃ u, step s = .next u ∧ u.phase = s.phase ∧ u.req = s.req ∧ u.responses = s.responses ∧ u.trace = s.trace := by
  refine ⟨_, step_phase hb, ?_⟩
  rw [emit_of_pending _ _ ha]
  exact ⟨rfl, rfl, rfl, rfl⟩

/-- A step that carries a request's last frame records it with its outcome and gives the outcome's response (R103,
R107, R109). -/
theorem step_phase_of_outcome (hb : phaseFrame s.params s.phase s.req = some b) (hq : s.phase.onOk = .idle)
    (ha : s.nextAnswer = o.answer) :
    step s = .next { s with
      dc := selectLineOf b.1, phase := .idle, req := none, trace := s.trace ++ [⟨b.1, b.2, o⟩],
      answers := s.answers.tail, draws := s.draws + 1, responses := s.responses ++ [outcomeResponse o] } := by
  rw [step_phase hb]
  cases o with
  | ok => rw [emit_of_ok_idle _ _ ha hq]; rfl
  | err e => rw [emit_of_err _ _ ha]; rfl

/-- Settles O17: CMD is latched from the port, and its one frame is its last. -/
theorem cmdRunsToItsResponse : Obligations.CmdRunsToItsResponse := by
  intro s c rest hp hport
  have hd : decodeRequest s.port = .instr (.cmd c) rest := congrArg decodeRequest hport
  have hb : phaseFrame s.params .fCmd (some (.cmd c)) = some (.command, [c]) := rfl
  exact ⟨_, step_of_acceptance hp hd rfl, rfl, rfl, rfl, fun ha => step_phase_of_pending hb ha,
    fun _ ha => step_phase_of_outcome (b := (.command, [c])) hb rfl ha⟩

/-- Settles O20: an empty DATA is answered from the port; any other is latched, and its one frame is its last. -/
theorem dataRunsToItsResponse : Obligations.DataRunsToItsResponse := by
  intro s payload rest hp hlen hport
  have hd : decodeRequest s.port = .instr (.data payload) rest :=
    hport ▸ decodeRequest_encode s.params rest (decide_eq_true hlen) rfl
  refine ⟨?empty, fun hn => ?nonempty⟩
  case empty =>
    rintro rfl
    exact step_of_acceptance hp hd (acceptance_data_nil _)
  case nonempty =>
    have hb : phaseFrame s.params .fData (some (.data payload)) = some (.data, payload) := if_neg hn
    exact ⟨_, step_of_acceptance hp hd (acceptance_data_of_ne_nil _ hn), rfl, rfl, rfl,
      fun ha => step_phase_of_pending hb ha, fun _ ha => step_phase_of_outcome (b := (.data, payload)) hb rfl ha⟩

/-- Settles O32: a request that is answered at once has no frame, and one that is latched runs through its frames. -/
theorem requestRunIsItsResult : Obligations.RequestRunIsItsResult :=
  fun _ _ _ _ _ _ _ hp hd hos hres => runSteps_request hp hd hos hres

end Sys2Proof.Machine
end

/-! ## Proofs: the window sequencer (spec/41_window_sequencer.md) -/

section
namespace Sys2Proof.Machine

variable {s : State} {x y w h origin extent : Half} {b : FrameBody}

/-! ### Validation -/

/-- An invalid window is answered in IDLE, with no frame (R123). -/
theorem exec_setWindow_invalid (hp : s.phase = .idle) (hv : windowValid s.params x y w h = false) :
    exec (.setWindow x y w h) s = .next s.raiseInvalidArgument :=
  exec_of_acceptance hp rfl (by simp [acceptance, hv])

/-- Settles O22: the four comparisons decide `windowValid`, and it decides the answer. -/
theorem setWindowIsValidatedExactly : Obligations.SetWindowIsValidatedExactly :=
  fun _ _ _ _ _ hp =>
    ⟨fun hv => exec_setWindow_valid hp (decide_eq_true hv), fun hv => exec_setWindow_invalid hp (decide_eq_false hv)⟩

/-! ### Bounds -/

/-- The end bound is one below the sum of origin and extent, reduced to 16 bits (R80, R124). -/
theorem boundEnd_toNat (origin extent : Half) :
    ((boundEnd origin extent).toNat : Int) = ((origin.toNat : Int) + extent.toNat - 1) % 65536 := by
  simp only [boundEnd, BitVec.toNat_sub, BitVec.toNat_add, show (1 : Half).toNat = 1 from rfl]
  omega

/-- An extent of at least 1 that ends within the panel has its bounds in order and in the panel, and the reduction
changes nothing (R124). -/
theorem bounds_in_panel {limit : Nat} (hpos : 1 ≤ extent.toNat) (hfit : origin.toNat + extent.toNat ≤ limit)
    (hlimit : limit ≤ 65535) :
    (boundEnd origin extent).toNat = origin.toNat + extent.toNat - 1 ∧
      (boundStart origin).toNat ≤ (boundEnd origin extent).toNat ∧ (boundEnd origin extent).toNat ≤ limit - 1 := by
  have hend : (boundEnd origin extent).toNat = origin.toNat + extent.toNat - 1 := by
    have hmod := boundEnd_toNat origin extent
    omega
  rw [hend, boundStart]
  omega

/-- Settles O23: the sum of a valid window's origin and extent is at most the panel's extent, which has 16 bits. -/
theorem windowBoundsLieInThePanel : Obligations.WindowBoundsLieInThePanel := by
  intro p x y w h hp hv
  obtain ⟨-, hwidth, -, hheight⟩ := of_decide_eq_true hp
  obtain ⟨-, -, hxw, hyh⟩ := of_decide_eq_true hv
  refine ⟨rfl, rfl, rfl, rfl, boundEnd_toNat x w, boundEnd_toNat y h, fun hw hh => ?_⟩
  obtain ⟨hce, hcols, hcmax⟩ := bounds_in_panel hw hxw hwidth
  obtain ⟨hre, hrows, hrmax⟩ := bounds_in_panel hh hyh hheight
  exact ⟨hce, hre, hcols, hcmax, hrows, hrmax⟩

/-- With extent 0 the end bound is one below a start of at least 1 (R125). -/
theorem boundEnd_toNat_of_extent_zero (hextent : extent = 0) (horigin : 1 ≤ origin.toNat) :
    (boundEnd origin extent).toNat = origin.toNat - 1 := by
  subst hextent
  have hmod := boundEnd_toNat origin 0
  rw [show (0 : Half).toNat = 0 from rfl] at hmod
  omega

/-- With origin and extent 0 the end bound wraps (R125). -/
theorem boundEnd_of_zero (hextent : extent = 0) (horigin : origin = 0) : boundEnd origin extent = 0xFFFF#16 := by
  subst hextent horigin
  decide

/-- Settles O24: the validation asks no positive extent of a window, and the bounds of extent 0 are those above. -/
theorem zeroExtentWindowsAreAccepted : Obligations.ZeroExtentWindowsAreAccepted :=
  fun _ _ _ _ _ hp hv _ =>
    ⟨exec_setWindow_valid hp hv,
     boundEnd_toNat_of_extent_zero, boundEnd_of_zero, fun _ hx => hx,
     boundEnd_toNat_of_extent_zero, boundEnd_of_zero, fun _ hy => hy⟩

/-! ### The emitted frames -/

theorem exec_casetFrame_wCasetC (hr : s.req = some (.setWindow x y w h)) (hp : s.phase = .wCasetC) :
    exec .casetFrame s = .next (s.emit .command [s.params.cmdCaset]) := by
  simp only [exec, execCasetFrame, hp, hr]

theorem exec_casetFrame_wCasetD (hr : s.req = some (.setWindow x y w h)) (hp : s.phase = .wCasetD) :
    exec .casetFrame s = .next (s.emit .data (boundPayload x w)) := by
  simp only [exec, execCasetFrame, hp, hr]

theorem exec_rasetFrame_wRasetC (hr : s.req = some (.setWindow x y w h)) (hp : s.phase = .wRasetC) :
    exec .rasetFrame s = .next (s.emit .command [s.params.cmdRaset]) := by
  simp only [exec, execRasetFrame, hp, hr]

theorem exec_rasetFrame_wRasetD (hr : s.req = some (.setWindow x y w h)) (hp : s.phase = .wRasetD) :
    exec .rasetFrame s = .next (s.emit .data (boundPayload y h)) := by
  simp only [exec, execRasetFrame, hp, hr]

theorem exec_ramwrFrame_wRamwrC (hr : s.req = some (.setWindow x y w h)) (hp : s.phase = .wRamwrC) :
    exec .ramwrFrame s = .next (s.emit .command [s.params.cmdRamwr]) := by
  simp only [exec, execRamwrFrame, hp, hr]

/-- Settles O25: each of the two phases emits its frame and goes on to the phase that R24's table gives. -/
theorem casetFrameEmitsTheColumnFrames : Obligations.CasetFrameEmitsTheColumnFrames :=
  fun _ _ _ _ _ hr =>
    ⟨fun hp => carriesFrame_of_exec (exec_casetFrame_wCasetC hr hp) (congrArg Phase.onOk hp) (by decide),
     fun hp => carriesFrame_of_exec (exec_casetFrame_wCasetD hr hp) (congrArg Phase.onOk hp) (by decide)⟩

/-- Settles O26: each of the two phases emits its frame and goes on to the phase that R24's table gives. -/
theorem rasetFrameEmitsTheRowFrames : Obligations.RasetFrameEmitsTheRowFrames :=
  fun _ _ _ _ _ hr =>
    ⟨fun hp => carriesFrame_of_exec (exec_rasetFrame_wRasetC hr hp) (congrArg Phase.onOk hp) (by decide),
     fun hp => carriesFrame_of_exec (exec_rasetFrame_wRasetD hr hp) (congrArg Phase.onOk hp) (by decide)⟩

/-- Settles O27: W_RAMWR_C emits the memory-write frame, and IDLE follows. -/
theorem ramwrFrameEndsTheWindow : Obligations.RamwrFrameEndsTheWindow :=
  fun _ _ _ _ _ hr hp =>
    carriesFrame_of_exec (exec_ramwrFrame_wRamwrC hr hp) (congrArg Phase.onOk hp) (by decide)

/-! ### Emitted frames outside their phases -/

/-- CASET_FRAME runs in its two phases with a window latched only (R127). -/
theorem exec_casetFrame_refused
    (hout : ∀ x y w h, s.req = some (.setWindow x y w h) → s.phase ≠ .wCasetC ∧ s.phase ≠ .wCasetD) :
    exec .casetFrame s = .refused .frameOutsideItsPhase := by
  simp only [exec, execCasetFrame]
  split
  case h_1 hp hr => exact absurd hp (hout _ _ _ _ hr).1
  case h_2 hp hr => exact absurd hp (hout _ _ _ _ hr).2
  case h_3 => rfl

/-- RASET_FRAME runs in its two phases with a window latched only (R127). -/
theorem exec_rasetFrame_refused
    (hout : ∀ x y w h, s.req = some (.setWindow x y w h) → s.phase ≠ .wRasetC ∧ s.phase ≠ .wRasetD) :
    exec .rasetFrame s = .refused .frameOutsideItsPhase := by
  simp only [exec, execRasetFrame]
  split
  case h_1 hp hr => exact absurd hp (hout _ _ _ _ hr).1
  case h_2 hp hr => exact absurd hp (hout _ _ _ _ hr).2
  case h_3 => rfl

/-- RAMWR_FRAME runs in its phase with a window latched only (R127). -/
theorem exec_ramwrFrame_refused (hout : ∀ x y w h, s.req = some (.setWindow x y w h) → s.phase ≠ .wRamwrC) :
    exec .ramwrFrame s = .refused .frameOutsideItsPhase := by
  simp only [exec, execRamwrFrame]
  split
  case h_1 hp hr => exact absurd hp (hout _ _ _ _ hr)
  case h_2 => rfl

/-- Settles O29: either the phase is not the frame's own, or no window is latched. -/
theorem emittedFramesRunOnlyInTheirPhases : Obligations.EmittedFramesRunOnlyInTheirPhases :=
  fun _ =>
    ⟨fun hc hd => exec_casetFrame_refused fun _ _ _ _ _ => ⟨hc, hd⟩,
     fun hc hd => exec_rasetFrame_refused fun _ _ _ _ _ => ⟨hc, hd⟩,
     fun hc => exec_ramwrFrame_refused fun _ _ _ _ _ => hc,
     fun hnone =>
      ⟨exec_casetFrame_refused fun _ _ _ _ hr => absurd hr (hnone _ _ _ _),
       exec_rasetFrame_refused fun _ _ _ _ hr => absurd hr (hnone _ _ _ _),
       exec_ramwrFrame_refused fun _ _ _ _ hr => absurd hr (hnone _ _ _ _)⟩⟩

/-! ### A window that fails -/

/-- With `k` outcomes `Ok` and then an error, the frames before frame `k` are carried, and frame `k` fails and decides
the response (R132, R137). -/
theorem play_replicate_ok_err (verdict : Response) {bs : List FrameBody} {k : Nat} (hb : bs[k]? = some b)
    (e : TransportError) :
    play verdict bs (List.replicate k .ok ++ [.err e]) =
      some ((bs.take k).map (fun b => ⟨b.1, b.2, .ok⟩) ++ [⟨b.1, b.2, .err e⟩], .transportFailure e) := by
  induction bs generalizing k with
  | nil => cases hb
  | cons b' bs ih =>
    cases k with
    | zero => cases hb; rfl
    | succ k => simp [List.replicate_succ, play, ih hb]

/-- Settles O31: the latched window runs as its frames are played with `k` outcomes `Ok` and then the error. -/
theorem windowRunAbortsAtTheFailedFrame : Obligations.WindowRunAbortsAtTheFailedFrame := by
  intro s x y w h k e more b hp hv hb hanswers
  refine ⟨_, exec_setWindow_valid hp hv, ?_⟩
  have hlen : min k (windowFrames s.params x y w h).length = k :=
    min_eq_left (List.getElem?_eq_some_iff.mp hb).1.le
  have hrun := (running_setWindow hv).runSteps (os := List.replicate k .ok ++ [.err e]) (more := more)
    (by simp [hanswers, FrameOutcome.answer]) (play_replicate_ok_err .ok hb e)
  simpa [afterRun, hlen, hanswers, List.drop_append] using hrun

end Sys2Proof.Machine
end

/-! ## Proofs: the host's sequences (spec/42_host_sequences.md) -/

section
namespace Sys2Proof.Machine

variable {s t : State} {p : Params} {d : Driver} {n patience limit : Nat} {x y w h origin extent : Half}
  {bs : List FrameBody} {os : List FrameOutcome} {frames : List Frame} {resp verdict : Response}
  {as : List HostAction} {bytes : List Byte}

/-! ### Colors and pixel words -/

/-- Settles O46: twice the exact value is even and the rounding adds the odd half-width 255, so there is no tie. -/
theorem scalingRoundsToTheNearest : Obligations.ScalingRoundsToTheNearest := by
  intro c n _
  simp only [scaled, Nat.mul_assoc]
  omega

/-- Three fields side by side, of which the lower two fit their widths, are their place-value sum. -/
theorem fields_eq_sum (r : Nat) {g b i j : Nat} (hg : g < 2 ^ i) (hb : b < 2 ^ j) :
    r <<< (i + j) ||| g <<< j ||| b = (r * 2 ^ i + g) * 2 ^ j + b := by
  rw [Nat.shiftLeft_add, ← Nat.shiftLeft_or_distrib, ← Nat.shiftLeft_add_eq_or_of_lt hg,
    ← Nat.shiftLeft_add_eq_or_of_lt hb, Nat.shiftLeft_eq, Nat.shiftLeft_eq]

theorem pack12_toNat (c : Color) :
    c.pack12.toNat = (scaled 4 c.r * 16 + scaled 4 c.g) * 16 + scaled 4 c.b := by
  have hr := (scaled_lt c.r).1
  have hg := (scaled_lt c.g).1
  have hb := (scaled_lt c.b).1
  rw [Color.pack12, BitVec.toNat_ofNat, fields_eq_sum (i := 4) (j := 4) _ hg hb]
  omega

theorem pack16_toNat (c : Color) :
    c.pack16.toNat = (scaled 5 c.r * 64 + scaled 6 c.g) * 32 + scaled 5 c.b := by
  have hr := (scaled_lt c.r).2.1
  have hg := (scaled_lt c.g).2.2
  have hb := (scaled_lt c.b).2.1
  rw [Color.pack16, BitVec.toNat_ofNat, fields_eq_sum (i := 6) (j := 5) _ hg hb]
  omega

theorem pack18_toNat (c : Color) :
    c.pack18.toNat = (scaled 6 c.r * 64 + scaled 6 c.g) * 64 + scaled 6 c.b := by
  have hr := (scaled_lt c.r).2.2
  have hg := (scaled_lt c.g).2.2
  have hb := (scaled_lt c.b).2.2
  rw [Color.pack18, BitVec.toNat_ofNat, fields_eq_sum (i := 6) (j := 6) _ hg hb]
  omega

/-- Settles O47: each scaled channel fits its field, so that the fields do not overlap. -/
theorem packingKeepsTheChannels : Obligations.PackingKeepsTheChannels :=
  fun c => ⟨pack12_toNat c, pack16_toNat c, pack18_toNat c⟩

/-- A stream of equal words is the repetition of the word's two bytes (R153). -/
theorem streamBytes_replicate (n : Nat) (word : BitVec 16) :
    streamBytes (List.replicate n word) = (List.replicate n (wordBytes word)).flatten :=
  List.flatMap_replicate

/-- Settles O60: only the plan in 16-bit mode is not refused, and a refused plan is not performed. -/
theorem onlySixteenBitModeRuns : Obligations.OnlySixteenBitModeRuns := by
  refine ⟨streamBytes_replicate, fun patience hp mode choice op d hmode => ?_⟩
  cases mode with
  | bits16 => exact absurd rfl hmode
  | bits12 | bits18 => rfl

/-! ### The split of a stream -/

/-- The DATA payloads of a stream (R154, R169). -/
def streamPayloads (choice : StreamChoice) (bytes : List Byte) : List (List Byte) :=
  if bytes = [] ∧ choice.emptyData = true then [[]] else splitStream choice.cuts bytes

@[simp] theorem splitStream_nil (cuts : List Nat) : splitStream cuts [] = [] := by
  cases cuts <;> rfl

theorem streamActions_eq_map (choice : StreamChoice) (bytes : List Byte) :
    streamActions choice bytes = (streamPayloads choice bytes).map fun payload => .request (.data payload) := by
  cases bytes with
  | nil => cases hc : choice.emptyData <;> simp [streamActions, streamPayloads, hc]
  | cons b bs => simp [streamActions, streamPayloads]

theorem streamPayloads_flatten (choice : StreamChoice) (bytes : List Byte) :
    (streamPayloads choice bytes).flatten = bytes := by
  rw [streamPayloads]
  split
  next hempty => exact hempty.1.symm
  next => exact splitStream_flatten ..

theorem nil_not_mem_streamPayloads (choice : StreamChoice) {bytes : List Byte} (hne : bytes ≠ []) :
    [] ∉ streamPayloads choice bytes := by
  rw [streamPayloads, if_neg fun hempty => hne hempty.1]
  exact nil_not_mem_splitStream choice.cuts bytes

/-- Settles O50: the payloads are those of the cuts, or the one empty payload of an empty stream. -/
theorem streamsCarryEveryByteOnce : Obligations.StreamsCarryEveryByteOnce :=
  fun choice bytes => ⟨streamPayloads choice bytes, streamActions_eq_map .., streamPayloads_flatten ..,
    nil_not_mem_streamPayloads choice⟩

/-- Cutting at the lengths of non-empty payloads gives them back (R154). -/
theorem splitStream_of_lengths {payloads : List (List Byte)} (hne : [] ∉ payloads) :
    splitStream (payloads.map fun payload => payload.length - 1) payloads.flatten = payloads := by
  induction payloads with
  | nil => rfl
  | cons payload payloads ih =>
    obtain ⟨hhead, htail⟩ := not_or.mp (mt List.mem_cons.mpr hne)
    obtain ⟨b, bs, rfl⟩ := List.exists_cons_of_ne_nil (Ne.symm hhead)
    simp [splitStream, ih htail]

/-- Settles O51: the choice cuts at the payloads' lengths. -/
theorem everySplitIsAdmitted : Obligations.EverySplitIsAdmitted := fun payloads hne =>
  ⟨⟨payloads.map fun payload => payload.length - 1, false⟩, by
    simp [streamActions_eq_map, streamPayloads, splitStream_of_lengths hne]⟩

/-! ### A clipped bitmap -/

theorem clippedBitmap_length {w w' rows : Nat} {pixels : List (BitVec 16)} (hw : w' ≤ w)
    (hlen : w * rows ≤ pixels.length) : (clippedBitmap w w' rows pixels).length = w' * rows := by
  induction rows generalizing pixels with
  | zero => rfl
  | succ rows ih =>
    rw [Nat.mul_succ] at hlen ⊢
    have hrest := ih (pixels := pixels.drop w) (by rw [List.length_drop]; omega)
    rw [clippedBitmap, List.length_append, hrest, List.length_take]
    omega

/-- Word `i` of row `j` of the clipped rectangle is word `i` of row `j` of the bitmap (R162). -/
theorem clippedBitmap_getElem? {w w' rows i j : Nat} {pixels : List (BitVec 16)} (hw : w' ≤ w)
    (hlen : w * rows ≤ pixels.length) (hj : j < rows) (hi : i < w') :
    (clippedBitmap w w' rows pixels)[j * w' + i]? = pixels[j * w + i]? := by
  induction rows generalizing pixels j with
  | zero => cases hj
  | succ rows ih =>
    rw [Nat.mul_succ] at hlen
    have hrow : (pixels.take w').length = w' := List.length_take_of_le (by omega)
    rw [clippedBitmap]
    cases j with
    | zero => rw [List.getElem?_append_left (by omega), Nat.zero_mul, Nat.zero_mul, List.getElem?_take_of_lt (by omega)]
    | succ j =>
      have hskip : (j + 1) * w' + i - w' = j * w' + i := by rw [Nat.succ_mul]; omega
      have hget := ih (pixels := pixels.drop w) (by rw [List.length_drop]; omega) (Nat.lt_of_succ_lt_succ hj)
      rw [List.getElem?_append_right (by rw [hrow, Nat.succ_mul]; omega), hrow, hskip, hget, List.getElem?_drop,
        Nat.succ_mul]
      congr 1
      omega

/-- Settles O52: by induction over the rows, each of which takes `w'` words and skips `w`. -/
theorem clippedBitmapTakesRowsAndColumns : Obligations.ClippedBitmapTakesRowsAndColumns := by
  intro w w' h h' pixels hlen hw hh
  have hrows : w * h' ≤ pixels.length := hlen ▸ Nat.mul_le_mul_left w hh
  exact ⟨clippedBitmap_length hw hrows, fun _ _ hj hi => clippedBitmap_getElem? hw hrows hj hi⟩

/-! ### The requests and the windows of a plan -/

@[simp] theorem requestsOf_flatMap {α : Type} (f : α → List HostAction) (xs : List α) :
    requestsOf (xs.flatMap f) = xs.flatMap fun a => requestsOf (f a) := by
  induction xs with
  | nil => rfl
  | cons a xs ih => simp [ih]

@[simp] theorem requestsOf_streamActions (choice : StreamChoice) (bytes : List Byte) :
    requestsOf (streamActions choice bytes) = (streamPayloads choice bytes).map .data := by
  rw [streamActions_eq_map]
  induction streamPayloads choice bytes with
  | nil => rfl
  | cons payload payloads ih => simp [requestsOf, ih]

@[simp] theorem requestsOf_hardResetActions (hp : HostParams) : requestsOf (hardResetActions hp) = [] := rfl

@[simp] theorem requestsOf_softResetActions (hp : HostParams) :
    requestsOf (softResetActions hp) = [.cmd hp.cmdSwreset] := rfl

@[simp] theorem requestsOf_descriptorActions (hp : HostParams) (e : Descriptor) :
    requestsOf (descriptorActions hp e) = [.cmd e.command, .data e.payload] := rfl

/-- Settles O55: each entry's actions are its two requests and a delay. -/
theorem tableReplayIssuesTwoCallsPerEntry : Obligations.TableReplayIssuesTwoCallsPerEntry := by
  intro hp table
  have hreqs : requestsOf (table.flatMap (descriptorActions hp)) =
      table.flatMap fun e => [.cmd e.command, .data e.payload] := by
    simp only [requestsOf_flatMap, requestsOf_descriptorActions]
  refine ⟨hreqs, ?_⟩
  rw [hreqs, List.length_flatMap]
  simp [Nat.mul_comm]

@[simp] theorem windowsOf_append (as bs : List HostAction) : windowsOf (as ++ bs) = windowsOf as ++ windowsOf bs := by
  simp [windowsOf]

@[simp] theorem isWindow_data (payload : List Byte) : (Request.data payload).isWindow = false := rfl

@[simp] theorem windowsOf_streamActions (choice : StreamChoice) (bytes : List Byte) :
    windowsOf (streamActions choice bytes) = [] := by
  simp [windowsOf, List.filter_eq_nil_iff]

/-- A window and its stream program one window (R155). -/
@[simp] theorem windowsOf_windowActions (choice : StreamChoice) (x y w h : Half) (words : List (BitVec 16)) :
    windowsOf (windowActions choice x y w h words) = [.setWindow x y w h] :=
  congrArg (Request.setWindow x y w h :: ·) (windowsOf_streamActions choice (streamBytes words))

@[simp] theorem windowsOf_rectActions (p : Params) (choice : StreamChoice) (x y w h : Half) (word : BitVec 16) :
    windowsOf (rectActions p choice x y w h word) =
      [.setWindow x y (clip p.panelWidth x w) (clip p.panelHeight y h)] :=
  windowsOf_windowActions ..

@[simp] theorem requestsOf_windowActions (choice : StreamChoice) (x y w h : Half) (words : List (BitVec 16)) :
    requestsOf (windowActions choice x y w h words) =
      .setWindow x y w h :: (streamPayloads choice (streamBytes words)).map .data :=
  congrArg (Request.setWindow x y w h :: ·) (requestsOf_streamActions choice (streamBytes words))

/-- An initialization requests the software reset, two requests an entry of the table, and the clear (R174 to R176). -/
@[simp] theorem requestsOf_initActions (hp : HostParams) (p : Params) (choice : StreamChoice) :
    requestsOf (initActions hp p choice) =
      .cmd hp.cmdSwreset :: hp.initTable.flatMap (fun e => [.cmd e.command, .data e.payload]) ++
        requestsOf (fillActions p choice Color.black.pack16) := by
  simp [initActions, requestsOf]

/-! ### Clips and origins -/

theorem clip_clip (limit : Nat) (origin extent : Half) :
    clip limit origin (clip limit origin extent) = clip limit origin extent := by
  apply BitVec.eq_of_toNat_eq
  simp only [clip_toNat]
  omega

/-- One column or row is left of every origin in the panel (R155). -/
theorem clip_one (horigin : origin.toNat < limit) : clip limit origin 1 = 1 := by
  apply BitVec.eq_of_toNat_eq
  simp only [clip_toNat, show (1 : Half).toNat = 1 from rfl]
  omega

/-- The last column or row of a clipped extent lies in the panel (R155, R161). -/
theorem lastEdge_lt (hlimit : limit ≤ 65535) (horigin : origin.toNat < limit) (hne : clip limit origin extent ≠ 0) :
    (origin + clip limit origin extent - 1).toNat < limit := by
  have hpos : 1 ≤ (clip limit origin extent).toNat := Nat.pos_of_ne_zero fun h => hne (BitVec.eq_of_toNat_eq h)
  have hfit : origin.toNat + (clip limit origin extent).toNat ≤ limit := by rw [clip_toNat]; omega
  have hend : (boundEnd origin (clip limit origin extent)).toNat =
      origin.toNat + (clip limit origin extent).toNat - 1 := (bounds_in_panel hpos hfit hlimit).1
  rw [boundEnd] at hend
  omega

/-- The clipped rectangle at an origin in the panel passes the block's validation (R155). -/
theorem windowValid_clip (w h : Half) (ho : originInside p x y = true) :
    windowValid p x y (clip p.panelWidth x w) (clip p.panelHeight y h) = true := by
  obtain ⟨hx, hy⟩ := of_decide_eq_true ho
  refine decide_eq_true ?_
  simp only [clip_toNat]
  omega

/-- The window of the whole panel passes the block's validation (R156). -/
theorem windowValid_panel (hp : p.panelFits = true) :
    windowValid p 0 0 (BitVec.ofNat 16 p.panelWidth) (BitVec.ofNat 16 p.panelHeight) = true := by
  obtain ⟨-, hw, -, hh⟩ := of_decide_eq_true hp
  refine decide_eq_true ?_
  simp only [BitVec.toNat_ofNat, show (0 : Half).toNat = 0 from rfl]
  omega

/-- Settles O53: each edge lies in the panel, so that its clip changes nothing. -/
theorem outlineIsFourWindows : Obligations.OutlineIsFourWindows := by
  intro p choice x y w h word hp ho hw hh
  obtain ⟨-, hwidth, -, hheight⟩ := of_decide_eq_true hp
  obtain ⟨hx, hy⟩ := of_decide_eq_true ho
  rw [outlineActions, if_neg (not_or.mpr ⟨hw, hh⟩)]
  simp only [windowsOf_append, windowsOf_rectActions, clip_clip, clip_one hx, clip_one hy,
    clip_one (lastEdge_lt hwidth hx hw), clip_one (lastEdge_lt hheight hy hh)]
  rfl

/-! ### The windows of a plan are valid -/

/-- Every window that a list of actions programs passes the block's validation. -/
def WindowsValid (p : Params) (as : List HostAction) : Prop :=
  ∀ x y w h, Request.setWindow x y w h ∈ requestsOf as → windowValid p x y w h = true

/-- Actions without a window request program no invalid window. -/
theorem windowsValid_of_forall_not_isWindow (h : ∀ r ∈ requestsOf as, r.isWindow = false) : WindowsValid p as :=
  fun _ _ _ _ hmem => nomatch h _ hmem

theorem WindowsValid.append {bs : List HostAction} (ha : WindowsValid p as) (hb : WindowsValid p bs) :
    WindowsValid p (as ++ bs) := by
  intro x y w h hmem
  rw [requestsOf_append] at hmem
  exact (List.mem_append.mp hmem).elim (ha x y w h) (hb x y w h)

theorem windowsValid_windowActions (choice : StreamChoice) (words : List (BitVec 16))
    (hv : windowValid p x y w h = true) : WindowsValid p (windowActions choice x y w h words) := by
  intro x' y' w' h' hmem
  obtain ⟨rfl, rfl, rfl, rfl⟩ : x' = x ∧ y' = y ∧ w' = w ∧ h' = h := by simpa using hmem
  exact hv

theorem windowsValid_fillActions (choice : StreamChoice) (word : BitVec 16) (hp : p.panelFits = true) :
    WindowsValid p (fillActions p choice word) :=
  windowsValid_windowActions _ _ (windowValid_panel hp)

theorem windowsValid_rectActions (choice : StreamChoice) (w h : Half) (word : BitVec 16)
    (ho : originInside p x y = true) : WindowsValid p (rectActions p choice x y w h word) :=
  windowsValid_windowActions _ _ (windowValid_clip w h ho)

/-- Each edge of an outline is a rectangle with its origin in the panel (R161). -/
theorem windowsValid_outlineActions (choice : Nat → StreamChoice) (w h : Half) (word : BitVec 16)
    (hp : p.panelFits = true) (ho : originInside p x y = true) :
    WindowsValid p (outlineActions p choice x y w h word) := by
  obtain ⟨-, hwidth, -, hheight⟩ := of_decide_eq_true hp
  obtain ⟨hx, hy⟩ := of_decide_eq_true ho
  rw [outlineActions]
  split
  next => exact windowsValid_of_forall_not_isWindow fun r hr => nomatch hr
  next hne =>
    obtain ⟨hw, hh⟩ := not_or.mp hne
    have hbottom : originInside p x (y + clip p.panelHeight y h - 1) = true :=
      decide_eq_true ⟨hx, lastEdge_lt hheight hy hh⟩
    have hright : originInside p (x + clip p.panelWidth x w - 1) y = true :=
      decide_eq_true ⟨lastEdge_lt hwidth hx hw, hy⟩
    exact (((windowsValid_rectActions _ _ _ _ ho).append (windowsValid_rectActions _ _ _ _ hbottom)).append
      (windowsValid_rectActions _ _ _ _ ho)).append (windowsValid_rectActions _ _ _ _ hright)

/-- An initialization programs no window but its clear's (R175, R176). -/
theorem windowsValid_initActions (hp : HostParams) (choice : StreamChoice) (hpanel : p.panelFits = true) :
    WindowsValid p (initActions hp p choice) := by
  intro x y w h hmem
  have hclear : Request.setWindow x y w h ∈ requestsOf (fillActions p choice Color.black.pack16) := by simpa using hmem
  exact windowsValid_fillActions choice _ hpanel x y w h hclear

/-- A primitive that has a plan has its origin in the panel (R155). -/
theorem fromOrigin_eq_actions {as' : List HostAction} (h : fromOrigin p x y as' = .actions as) :
    originInside p x y = true ∧ as' = as := by
  rw [fromOrigin] at h
  split at h
  next ho => exact ⟨ho, HostPlan.actions.inj h⟩
  next => cases h

/-- A bitmap that has a plan has its origin in the panel (R162). -/
theorem bitmapPlan_eq_actions {choice : StreamChoice} {pixels : Option (List (BitVec 16))}
    (h' : bitmapPlan p choice x y w h pixels = .actions as) :
    originInside p x y = true ∧ ∃ words, bitmapActions p choice x y w h words = as := by
  cases pixels with
  | none => cases h'
  | some words =>
    rw [bitmapPlan] at h'
    split at h'
    next ho =>
      split at h'
      next => exact ⟨ho, words, HostPlan.actions.inj h'⟩
      next => cases h'
    next => cases h'

/-- Only 16-bit mode has a plan of actions (R153). -/
theorem expansion_of_plan_eq_actions {hp : HostParams} {mode : ColorMode} {choice : Nat → StreamChoice} {op : HostOp}
    (h : op.plan hp p mode choice = .actions as) : op.expansion hp p choice = .actions as := by
  cases mode with
  | bits16 => exact h
  | bits12 | bits18 => cases h

theorem windowsValid_expansion {hp : HostParams} {choice : Nat → StreamChoice} {op : HostOp}
    (hpanel : p.panelFits = true) (hexp : op.expansion hp p choice = .actions as) : WindowsValid p as := by
  cases op with
  | fill | clear => cases hexp; exact windowsValid_fillActions _ _ hpanel
  | init => cases hexp; exact windowsValid_initActions hp _ hpanel
  | setPixel x y color =>
    obtain ⟨ho, rfl⟩ := fromOrigin_eq_actions hexp
    obtain ⟨hx, hy⟩ := of_decide_eq_true ho
    exact windowsValid_windowActions _ _ (by simpa only [clip_one hx, clip_one hy] using windowValid_clip 1 1 ho)
  | fillRect | drawHline | drawVline =>
    obtain ⟨ho, rfl⟩ := fromOrigin_eq_actions hexp
    exact windowsValid_rectActions _ _ _ _ ho
  | drawRect =>
    obtain ⟨ho, rfl⟩ := fromOrigin_eq_actions hexp
    exact windowsValid_outlineActions _ _ _ _ hpanel ho
  | drawBitmap =>
    obtain ⟨ho, words, rfl⟩ := bitmapPlan_eq_actions hexp
    exact windowsValid_windowActions _ _ (windowValid_clip _ _ ho)
  | drawLine => cases hexp
  | displayOn | displayOff | invert | softReset | setRotation | hardReset =>
    cases hexp
    exact windowsValid_of_forall_not_isWindow (by simp [requestsOf, Request.isWindow])

/-- Settles O48: a plan's rectangles are clipped at an origin in the panel, and its other windows are the whole panel. -/
theorem hostWindowsAreValid : Obligations.HostWindowsAreValid :=
  fun _ _ _ _ _ _ x y w h hpanel hplan hmem =>
    windowsValid_expansion hpanel (expansion_of_plan_eq_actions hplan) x y w h hmem

/-! ### The origin check and the rotation -/

theorem originInside_eq_false (h : p.panelWidth ≤ x.toNat ∨ p.panelHeight ≤ y.toNat) :
    originInside p x y = false :=
  decide_eq_false (by omega)

theorem fromOrigin_outside (as : List HostAction) (h : originInside p x y = false) :
    fromOrigin p x y as = .invalidArgument := by
  rw [fromOrigin, h]; rfl

theorem bitmapPlan_outside (choice : StreamChoice) (w h : Half) (pixels : Option (List (BitVec 16)))
    (ho : originInside p x y = false) : bitmapPlan p choice x y w h pixels = .invalidArgument := by
  cases pixels with
  | none => rfl
  | some words => rw [bitmapPlan, ho]; rfl

/-- An operation whose plan is `InvalidArgument` returns it and touches nothing (R150). -/
theorem run_of_plan_invalidArgument {patience : Nat} {hp : HostParams} {mode : ColorMode} {choice : Nat → StreamChoice}
    {op : HostOp} {d : Driver} (h : op.plan hp d.block.params mode choice = .invalidArgument) :
    op.run patience hp mode choice d = (.returned .invalidArgument, d) := by
  rw [HostOp.run, h]

/-- Settles O49: the origin check fails before anything is planned. -/
theorem originOutsideThePanelIssuesNothing : Obligations.OriginOutsideThePanelIssuesNothing := by
  intro patience hp choice d x y w h color pixels hout op hop
  have ho := originInside_eq_false hout
  apply run_of_plan_invalidArgument
  simp only [List.mem_cons, List.not_mem_nil, or_false] at hop
  obtain rfl | rfl | rfl | rfl | rfl | rfl := hop
  case inr.inr.inr.inr.inr => exact bitmapPlan_outside _ _ _ _ ho
  all_goals exact fromOrigin_outside _ ho

/-- The rotation's byte depends on the rotation modulo 8 only (R168). -/
theorem rotationByte_mod (hp : HostParams) (r : Byte) : rotationByte hp (r % 8) = rotationByte hp r := by
  have hmod : (r % 8).toNat % 8 = r.toNat % 8 := by
    rw [BitVec.toNat_umod, show (8 : Byte).toNat = 8 from rfl, Nat.mod_mod]
  simp only [rotationByte, hmod]

/-- Settles O57: the plan is the access-control command and the rotation's byte; in the other modes it is refused. -/
theorem rotationWrapsModuloEight : Obligations.RotationWrapsModuloEight := by
  intro hp p choice r
  refine ⟨rfl, ?_, fun mode => ?_⟩
  · simp only [plan_bits16, HostOp.expansion, rotationByte_mod]
  · cases mode with
    | bits12 | bits16 | bits18 => exact HostPlan.noConfusion

/-! ### Issuing one request -/

/-- Nothing is put on an empty port by a step: the host alone fills it (R30). -/
theorem step_port_nil (hs : step s = .next t) (hport : s.port = []) : t.port = [] := by
  obtain ⟨hidle, hbusy⟩ := (inputsAreReadInTheirPhases s t hs).2
  by_cases hp : s.phase = .idle
  · obtain ⟨-, -, hsame | ⟨i, hd⟩⟩ := hidle hp
    · rw [hsame, hport]
    · rw [hport] at hd; cases hd
  · rw [(hbusy hp).1, hport]

/-- An idle block with nothing at its port stays as it is, however often it steps (R24, R232). -/
theorem runSteps_waiting (n : Nat) (hp : s.phase = .idle) (hport : s.port = []) : runSteps n s = .next s := by
  induction n with
  | zero => rfl
  | succ n ih => rw [runSteps_of_next (step_waiting hp hport), ih]

/-- A run that ends in IDLE, and whose first step takes the last bytes of the port, is what the driver sees when it
waits as long: if the block is back in IDLE earlier, it stays there. -/
theorem serve_of_runSteps (hrun : runSteps (n + 1) s = .next t) (ht : t.phase = .idle) (hn : n + 1 ≤ patience)
    (hport : ∀ u, step s = .next u → u.port = []) : serve patience s = t := by
  induction patience generalizing s n with
  | zero => omega
  | succ patience ih =>
    obtain ⟨u, hu, hrest⟩ := step_of_runSteps hrun
    have huport := hport u hu
    simp only [serve, hu]
    split
    next hidle =>
      rw [runSteps_waiting n hidle huport] at hrest
      exact Host.Outcome.next.inj hrest
    next hbusy =>
      cases n with
      | zero => cases hrest; exact absurd ht hbusy
      | succ n => exact ih hrest (by omega) fun v hv => step_port_nil hv huport

/-- No more frames are carried than there are. -/
theorem length_frames_le_length_bodies (h : play verdict bs os = some (frames, resp)) :
    frames.length ≤ bs.length := by
  induction bs generalizing os frames with
  | nil => simp [(play_nil.mp h).1]
  | cons b bs ih =>
    obtain ⟨e, os', rfl, rfl, -⟩ | ⟨os', frames', rfl, rfl, hplay⟩ := play_cons h
    · simp
    · simpa using ih hplay

/-- A request has at most the five frames of a window (R79). -/
theorem length_requestFrames_le (p : Params) (i : Instr) : (requestFrames p i).length ≤ 5 := by
  cases i with
  | cmd c => simp [requestFrames]
  | data payload => simp only [requestFrames]; split <;> simp
  | setWindow x y w h => simp only [requestFrames]; split <;> simp [windowFrames]
  | reserved | casetFrame | rasetFrame | ramwrFrame => simp [requestFrames]

theorem port_request_instr (q : Request) : q.instr.port = .request := by
  cases q <;> rfl

/-- A request that is presented is what the block decodes, and nothing is left of it at the port. -/
theorem decodeRequest_present {q : Request} (s : State) (hw : q.instr.wf = true) :
    decodeRequest (s.present q).port = .instr q.instr [] := by
  simpa [State.present] using decodeRequest_encode s.params [] hw (port_request_instr q)

/-- Once a presented request has been accepted, the port is empty. -/
theorem port_of_step_present {q : Request} (hw : q.instr.wf = true) (hp : s.phase = .idle)
    (hs : step (s.present q) = .next t) : t.port = [] := by
  obtain ⟨m, hm, -⟩ := exec_idle (s := { s.present q with port := [] }) hp (port_request_instr q)
  rw [step_of_acceptance (s := s.present q) hp (decodeRequest_present s hw) hm] at hs
  cases hs
  exact acceptance_port hm

/-- Waiting for a presented request ends where its run does. -/
theorem serve_present {q : Request} {more : List TransportAnswer} (hpat : 6 ≤ patience) (hw : q.instr.wf = true)
    (hp : s.phase = .idle) (hos : s.answers = os.map FrameOutcome.answer ++ more)
    (hres : requestResult s.params q.instr os = some (frames, resp)) :
    serve patience (s.present q) = afterRun s [] frames [resp] := by
  have hrun := runSteps_request (s := s.present q) hp (decodeRequest_present s hw) hos hres
  have hlen := (length_frames_le_length_bodies hres).trans (length_requestFrames_le ..)
  exact serve_of_runSteps hrun rfl (by omega) fun u hu => port_of_step_present hw hp hu

/-- Settles O56: the block serves the presented request as its run does, whose response is the one it adds. -/
theorem issuedRequestGivesItsResult : Obligations.IssuedRequestGivesItsResult := by
  intro patience q d outcomes more frames r hpat hw hp _ hport hos hres
  obtain ⟨-, hissue⟩ | ⟨hnot, -⟩ := issue_cases patience q d
  · rw [hissue, serve_present hpat hw hp hos hres]
    simp [afterRun]
  · exact absurd ⟨hw, hp, hport⟩ hnot

/-! ### Performing actions one after another -/

/-- A request answered `Ok` is followed by the later actions (R170). -/
theorem perform_request_of_ok {q : Request} (h : (d.issue patience q).1 = some .ok) :
    d.perform patience (.request q :: as) = (d.issue patience q).2.perform patience as := by
  rcases hd : d.issue patience q with ⟨o, d'⟩
  obtain rfl : o = some .ok := by simpa [hd] using h
  simp only [Driver.perform, hd]

/-- A request answered otherwise ends the operation with its response (R170). -/
theorem perform_request_of_ne_ok {q : Request} (h : (d.issue patience q).1 = some resp) (hne : resp ≠ .ok) :
    d.perform patience (.request q :: as) = (.returned resp, (d.issue patience q).2) := by
  rcases hd : d.issue patience q with ⟨o, d'⟩
  obtain rfl : o = some resp := by simpa [hd] using h
  cases resp with
  | ok => exact absurd rfl hne
  | invalidArgument | transportFailure e => simp only [Driver.perform, hd]

/-- A request that is not answered ends the operation without a response (R199). -/
theorem perform_request_of_none {q : Request} (h : (d.issue patience q).1 = none) :
    d.perform patience (.request q :: as) =
      (if q.instr.wf = true then .blocked else .refused .payloadTooLong, (d.issue patience q).2) := by
  rcases hd : d.issue patience q with ⟨o, d'⟩
  obtain rfl : o = none := by simpa [hd] using h
  simp only [Driver.perform, hd]

/-- An operation without an answer has not returned. -/
theorem unanswered_ne_returned (q : Request) (resp : Response) :
    (if q.instr.wf = true then HostResult.blocked else .refused .payloadTooLong) ≠ .returned resp := by
  split <;> exact HostResult.noConfusion

/-- Later actions are performed where the earlier ones have ended with `Ok`, and only there (R155, R170). -/
theorem perform_append (patience : Nat) (before after : List HostAction) (d : Driver) :
    d.perform patience (before ++ after) =
      if (d.perform patience before).1 = .returned .ok then (d.perform patience before).2.perform patience after
      else d.perform patience before := by
  induction before generalizing d with
  | nil => rfl
  | cons a as ih =>
    cases a with
    | request q =>
      rw [List.cons_append]
      rcases ha : (d.issue patience q).1 with _ | resp
      · rw [perform_request_of_none ha, perform_request_of_none ha, if_neg (unanswered_ne_returned q .ok)]
      · by_cases hok : resp = .ok
        · subst hok
          rw [perform_request_of_ok ha, perform_request_of_ok ha, ih]
        · rw [perform_request_of_ne_ok ha hok, perform_request_of_ne_ok ha hok,
            if_neg fun h => hok (HostResult.returned.inj h)]
    | setResetLine | wait | enter => exact ih _

/-- Settles O54: by the three answers a request can have, and by induction over the earlier actions. -/
theorem hostStopsAtTheFirstFailure : Obligations.HostStopsAtTheFirstFailure := by
  intro patience d
  refine ⟨fun q as => ⟨perform_request_of_ok, fun resp => perform_request_of_ne_ok, fun hnone => ?_⟩,
    fun before after => ⟨fun hok => ?_, fun hne => ?_⟩⟩
  · rw [perform_request_of_none hnone]
    exact ⟨rfl, unanswered_ne_returned q⟩
  · rw [perform_append, if_pos hok]
  · rw [perform_append, if_neg hne]

/-- Settles O58: the pulse's five actions are events, none a request. -/
theorem resetPulseLeavesTheBlock : Obligations.ResetPulseLeavesTheBlock := by
  intro patience hp choice d
  simp [HostOp.run, HostOp.expansion, hardResetActions, Driver.perform]

/-! ### Operations whose frames all succeed -/

/-- The frames a request emits when none fails (R78, R79). -/
def okFrames (p : Params) (q : Request) : List Frame := (requestFrames p q.instr).map fun b => ⟨b.1, b.2, .ok⟩

@[simp] theorem okFrames_cmd (p : Params) (c : Byte) : okFrames p (.cmd c) = [⟨.command, [c], .ok⟩] := rfl

@[simp] theorem okFrames_data (p : Params) (payload : List Byte) :
    okFrames p (.data payload) = if payload = [] then [] else [⟨.data, payload, .ok⟩] := by
  simp only [okFrames, Request.instr, requestFrames]
  split <;> rfl

theorem okFrames_setWindow (hv : windowValid p x y w h = true) :
    okFrames p (.setWindow x y w h) = (windowFrames p x y w h).map fun b => ⟨b.1, b.2, .ok⟩ :=
  congrArg (List.map _) (if_pos hv)

/-- The frames of a list of actions when none fails, one request's after another's (R61). -/
def carriedFrames (p : Params) (as : List HostAction) : List Frame := (requestsOf as).flatMap (okFrames p)

/-- What an action leaves among the driver's events. -/
def HostAction.event? : HostAction → Option HostEvent
  | .request _ => none
  | .setResetLine l => some (.resetLine l)
  | .wait ms => some (.waited ms)
  | .enter _ => none

/-- The state of the Initialization Sequencer after an action. -/
def HostAction.stateAfter (before : InitState) : HostAction → InitState
  | .request _ => before
  | .setResetLine _ => before
  | .wait _ => before
  | .enter target => target

/-- The driver after actions whose requests have all been answered `Ok`. -/
def Driver.performed (as : List HostAction) (d : Driver) : Driver where
  block := afterRun d.block [] (carriedFrames d.block.params as) (List.replicate (requestsOf as).length .ok)
  initState := as.foldl HostAction.stateAfter d.initState
  events := d.events ++ as.filterMap HostAction.event?

theorem performed_dc (as : List HostAction) (d : Driver) :
    (d.performed as).block.dc = selectLineAfter d.block.dc (carriedFrames d.block.params as) := rfl

theorem performed_trace (as : List HostAction) (d : Driver) :
    (d.performed as).block.trace = d.block.trace ++ carriedFrames d.block.params as := rfl

theorem performed_events (as : List HostAction) (d : Driver) :
    (d.performed as).events = d.events ++ as.filterMap HostAction.event? := rfl

/-- The driver after one request that has been answered `Ok`. -/
def Driver.answered (q : Request) (d : Driver) : Driver :=
  { d with block := afterRun d.block [] (okFrames d.block.params q) [.ok] }

/-- The block is in IDLE with no request, latched or at its port (R30). -/
structure Driver.Ready (d : Driver) : Prop where
  phase : d.block.phase = .idle
  req : d.block.req = none
  port : d.block.port = []

theorem performed_nil (h : d.Ready) : d.performed [] = d := by
  have hblock := afterRun_nil h.phase h.req
  rw [h.port] at hblock
  simp [Driver.performed, carriedFrames, requestsOf, hblock]

theorem performed_request (q : Request) (as : List HostAction) (d : Driver) :
    d.performed (.request q :: as) = (d.answered q).performed as := by
  have hblock := afterRun_afterRun d.block [] [] (okFrames d.block.params q) (carriedFrames d.block.params as) [.ok]
    (List.replicate (requestsOf as).length .ok)
  exact congrArg (Driver.mk · _ _) hblock.symm

theorem performed_setResetLine (l : ResetLevel) (as : List HostAction) (d : Driver) :
    d.performed (.setResetLine l :: as) = Driver.performed as { d with events := d.events ++ [.resetLine l] } := by
  simp [Driver.performed, carriedFrames, requestsOf, HostAction.event?, HostAction.stateAfter]

theorem performed_wait (ms : Nat) (as : List HostAction) (d : Driver) :
    d.performed (.wait ms :: as) = Driver.performed as { d with events := d.events ++ [.waited ms] } := by
  simp [Driver.performed, carriedFrames, requestsOf, HostAction.event?, HostAction.stateAfter]

theorem performed_enter (target : InitState) (as : List HostAction) (d : Driver) :
    d.performed (.enter target :: as) = Driver.performed as { d with initState := target } := rfl

/-- A request that the block answers `Ok` when no frame of it fails (R191). -/
def Request.Succeeds (p : Params) (q : Request) : Prop := q.instr.wf = true ∧ requestVerdict p q.instr = .ok

/-- With an answer `Ok` for each of its frames, a request is answered `Ok`. -/
theorem issue_of_ok {q : Request} (hpat : 6 ≤ patience) (hd : d.Ready) (hq : q.Succeeds d.block.params)
    (hanswers : d.block.answers = List.replicate n .ok) (hn : (okFrames d.block.params q).length ≤ n) :
    d.issue patience q = (some .ok, d.answered q) := by
  obtain ⟨hw, hverdict⟩ := hq
  obtain ⟨m, rfl⟩ := Nat.exists_eq_add_of_le hn
  have hres := play_replicate_ok .ok (requestFrames d.block.params q.instr)
  rw [← hverdict] at hres
  have hos : d.block.answers = (List.replicate (requestFrames d.block.params q.instr).length
      FrameOutcome.ok).map FrameOutcome.answer ++ List.replicate m .ok := by
    rw [hanswers, okFrames, List.length_map, List.map_replicate, FrameOutcome.answer, List.replicate_add]
  have hissue := issuedRequestGivesItsResult _ _ _ _ _ _ _ hpat hw hd.phase hd.req hd.port hos hres
  rwa [hverdict] at hissue

/-- With an answer `Ok` for each frame, actions whose requests succeed are all performed (R170). -/
theorem perform_of_ok (hpat : 6 ≤ patience) (hd : d.Ready) (has : ∀ q ∈ requestsOf as, q.Succeeds d.block.params)
    (hanswers : d.block.answers = List.replicate n .ok) (hn : (carriedFrames d.block.params as).length ≤ n) :
    d.perform patience as = (.returned .ok, d.performed as) := by
  induction as generalizing d n with
  | nil => rw [performed_nil hd]; rfl
  | cons a as ih =>
    cases a with
    | request q =>
      obtain ⟨hq, has'⟩ := List.forall_mem_cons.mp has
      have hlen : (okFrames d.block.params q).length + (carriedFrames d.block.params as).length ≤ n := by
        simpa [carriedFrames, requestsOf] using hn
      have hissue := issue_of_ok hpat hd hq hanswers (by omega)
      have hrest : (d.answered q).perform patience as = (.returned .ok, (d.answered q).performed as) :=
        ih ⟨rfl, rfl, rfl⟩ has' (n := n - (okFrames d.block.params q).length)
          (by simp [Driver.answered, afterRun, hanswers]) (show (carriedFrames d.block.params as).length ≤ _ by omega)
      rw [perform_request_of_ok (by rw [hissue]), hissue, hrest, performed_request]
    | setResetLine l => rw [performed_setResetLine]; exact ih ⟨hd.phase, hd.req, hd.port⟩ has hanswers hn
    | wait ms => rw [performed_wait]; exact ih ⟨hd.phase, hd.req, hd.port⟩ has hanswers hn
    | enter target => rw [performed_enter]; exact ih ⟨hd.phase, hd.req, hd.port⟩ has hanswers hn

/-! ### An initialization whose frames all succeed -/

/-- The frames of a table entry, none for an empty payload (R107, R175). -/
def descriptorFrames (e : Descriptor) : List Frame :=
  ⟨.command, [e.command], .ok⟩ :: if e.payload = [] then [] else [⟨.data, e.payload, .ok⟩]

theorem length_descriptorFrames_le (e : Descriptor) : (descriptorFrames e).length ≤ 2 := by
  rw [descriptorFrames]
  split <;> simp

/-- A table's frames are at most two an entry (R175). -/
theorem length_tableFrames_le (table : List Descriptor) :
    (table.flatMap descriptorFrames).length ≤ 2 * table.length := by
  induction table with
  | nil => rfl
  | cons e table ih =>
    have he := length_descriptorFrames_le e
    simp only [List.flatMap_cons, List.length_append, List.length_cons]
    omega

/-- A payload's frame (R107). -/
def dataFrame (payload : List Byte) : Frame := ⟨.data, payload, .ok⟩

/-- Non-empty payloads have one data frame each (R107). -/
theorem flatMap_okFrames_data (p : Params) {payloads : List (List Byte)} (hne : [] ∉ payloads) :
    (payloads.map Request.data).flatMap (okFrames p) = payloads.map dataFrame := by
  induction payloads with
  | nil => rfl
  | cons payload payloads ih =>
    obtain ⟨hhead, htail⟩ := not_or.mp (mt List.mem_cons.mpr hne)
    simp [ih htail, Ne.symm hhead, dataFrame]

/-- The bytes of a clear's stream: black words are zero bytes, two a word (R152, R153, R164). -/
def clearBytes (p : Params) : List Byte := List.replicate (2 * (p.panelWidth * p.panelHeight)) 0#8

@[simp] theorem clearBytes_length (p : Params) : (clearBytes p).length = 2 * (p.panelWidth * p.panelHeight) :=
  List.length_replicate

theorem clearBytes_ne_nil (hp : p.panelFits = true) : clearBytes p ≠ [] := by
  obtain ⟨hw, -, hh, -⟩ := of_decide_eq_true hp
  have hpixels : 0 < p.panelWidth * p.panelHeight := Nat.mul_pos hw hh
  exact List.ne_nil_of_length_pos (by rw [clearBytes_length]; omega)

theorem streamBytes_black (p : Params) :
    streamBytes (List.replicate (p.panelWidth * p.panelHeight) Color.black.pack16) = clearBytes p := by
  rw [streamBytes_replicate, show wordBytes Color.black.pack16 = List.replicate 2 0#8 by decide,
    List.flatten_replicate_replicate, Nat.mul_comm, clearBytes]

/-- A clear requests the window of the whole panel and the stream of black words (R156, R164). -/
theorem requestsOf_clear (p : Params) (choice : StreamChoice) :
    requestsOf (fillActions p choice Color.black.pack16) =
      .setWindow 0 0 (BitVec.ofNat 16 p.panelWidth) (BitVec.ofNat 16 p.panelHeight) ::
        (streamPayloads choice (clearBytes p)).map .data := by
  rw [fillActions, requestsOf_windowActions, streamBytes_black]

theorem carriedFrames_clear (choice : StreamChoice) (hp : p.panelFits = true) :
    carriedFrames p (fillActions p choice Color.black.pack16) =
      (windowFrames p 0 0 (BitVec.ofNat 16 p.panelWidth) (BitVec.ofNat 16 p.panelHeight)).map
        (fun b => ⟨b.1, b.2, .ok⟩) ++
      (streamPayloads choice (clearBytes p)).map dataFrame := by
  rw [carriedFrames, requestsOf_clear, List.flatMap_cons, okFrames_setWindow (windowValid_panel hp),
    flatMap_okFrames_data p (nil_not_mem_streamPayloads choice (clearBytes_ne_nil hp))]

/-- An initialization carries the software reset, the table's frames, the window of the whole panel and the frames of
the clear's stream (R174 to R176). -/
theorem carriedFrames_initActions (hp : HostParams) (choice : StreamChoice) (hpanel : p.panelFits = true) :
    carriedFrames p (initActions hp p choice) =
      [⟨.command, [hp.cmdSwreset], .ok⟩] ++ hp.initTable.flatMap descriptorFrames ++
        (windowFrames p 0 0 (BitVec.ofNat 16 p.panelWidth) (BitVec.ofNat 16 p.panelHeight)).map
          (fun b => ⟨b.1, b.2, .ok⟩) ++
        (streamPayloads choice (clearBytes p)).map dataFrame := by
  have hparts : carriedFrames p (initActions hp p choice) =
      [⟨.command, [hp.cmdSwreset], .ok⟩] ++ hp.initTable.flatMap descriptorFrames ++
        carriedFrames p (fillActions p choice Color.black.pack16) := by
    simp [carriedFrames, List.flatMap_assoc, ← descriptorFrames.eq_def]
  rw [hparts, carriedFrames_clear choice hpanel, List.append_assoc _ (List.map _ _)]

theorem flatMap_bytes_dataFrame (payloads : List (List Byte)) :
    (payloads.map dataFrame).flatMap Frame.bytes = payloads.flatten := by
  simp [List.flatMap_def, Function.comp_def, dataFrame]

/-- A stream has no more payloads than bytes, if none is empty (R154). -/
theorem length_streamPayloads_le (choice : StreamChoice) (hne : bytes ≠ []) :
    (streamPayloads choice bytes).length ≤ bytes.length := by
  conv_rhs => rw [← streamPayloads_flatten choice bytes, List.length_flatten]
  have hpos : ∀ k ∈ (streamPayloads choice bytes).map List.length, 1 ≤ k := by
    simp only [List.mem_map, forall_exists_index, and_imp, forall_apply_eq_imp_iff₂]
    intro payload hmem
    exact List.length_pos_of_ne_nil (ne_of_mem_of_not_mem hmem (nil_not_mem_streamPayloads choice hne))
  simpa using List.length_le_sum_of_one_le _ hpos

/-- A stream's payload is no longer than the stream (R154). -/
theorem length_le_of_mem_streamPayloads {choice : StreamChoice} {payload : List Byte}
    (hmem : payload ∈ streamPayloads choice bytes) : payload.length ≤ bytes.length := by
  conv_rhs => rw [← streamPayloads_flatten choice bytes]
  exact (List.sublist_flatten_of_mem hmem).length_le

/-- An initialization needs one answer for the software reset, five for the window, at most two an entry of the table
and at most one a byte of the stream. -/
theorem length_carriedFrames_initActions_le (hp : HostParams) (choice : StreamChoice) (hpanel : p.panelFits = true) :
    (carriedFrames p (initActions hp p choice)).length ≤
      6 + 2 * hp.initTable.length + 2 * (p.panelWidth * p.panelHeight) := by
  have htable := length_tableFrames_le hp.initTable
  have hstream := length_streamPayloads_le choice (clearBytes_ne_nil hpanel)
  rw [clearBytes_length] at hstream
  simp only [carriedFrames_initActions hp choice hpanel, List.length_append, List.length_map, windowFrames,
    List.length_cons, List.length_nil]
  omega

/-- After data frames the select line is at Data (R22). -/
theorem selectLineAfter_dataFrames (before : SelectLine) {payloads : List (List Byte)} (hne : payloads ≠ []) :
    selectLineAfter before (payloads.map dataFrame) = .data := by
  rcases List.eq_nil_or_concat payloads with rfl | ⟨earlier, last, rfl⟩
  · exact absurd rfl hne
  · simp [dataFrame]

theorem succeeds_cmd (p : Params) (c : Byte) : (Request.cmd c).Succeeds p := ⟨rfl, rfl⟩

theorem succeeds_data (p : Params) {payload : List Byte} (h : payload.length ≤ maxDataLen) :
    (Request.data payload).Succeeds p := ⟨decide_eq_true h, rfl⟩

theorem succeeds_setWindow (hv : windowValid p x y w h = true) : (Request.setWindow x y w h).Succeeds p :=
  ⟨rfl, if_pos hv⟩

/-- The requests of a clear succeed on a panel whose stream fits one DATA request (R74, R156). -/
theorem succeeds_of_mem_clear {choice : StreamChoice} {q : Request} (hp : p.panelFits = true)
    (hfit : 2 * (p.panelWidth * p.panelHeight) ≤ maxDataLen)
    (hmem : q ∈ requestsOf (fillActions p choice Color.black.pack16)) : q.Succeeds p := by
  rw [requestsOf_clear] at hmem
  obtain rfl | hdata := List.mem_cons.mp hmem
  · exact succeeds_setWindow (windowValid_panel hp)
  · obtain ⟨payload, hpayload, rfl⟩ := List.mem_map.mp hdata
    have hlen := length_le_of_mem_streamPayloads hpayload
    rw [clearBytes_length] at hlen
    exact succeeds_data p (hlen.trans hfit)

/-- A table entry that fits is carried by one DATA request (R172). -/
theorem length_le_of_fits {e : Descriptor} (he : e.fits = true) : e.payload.length ≤ maxDataLen :=
  (of_decide_eq_true he).trans (by decide)

/-- The requests of an initialization succeed with a table that fits, on such a panel (R172 to R176). -/
theorem succeeds_of_mem_initActions {hp : HostParams} {choice : StreamChoice} {q : Request} (hpanel : p.panelFits = true)
    (hfit : 2 * (p.panelWidth * p.panelHeight) ≤ maxDataLen) (htable : ∀ e ∈ hp.initTable, e.fits = true)
    (hmem : q ∈ requestsOf (initActions hp p choice)) : q.Succeeds p := by
  rw [requestsOf_initActions, List.mem_append, List.mem_cons, List.mem_flatMap] at hmem
  obtain (rfl | ⟨e, he, hq⟩) | hq := hmem
  · exact succeeds_cmd p _
  · obtain rfl | rfl : q = .cmd e.command ∨ q = .data e.payload := by simpa using hq
    · exact succeeds_cmd p _
    · exact succeeds_data p (length_le_of_fits (htable e he))
  · exact succeeds_of_mem_clear hpanel hfit hq

/-- Requests leave no event. -/
theorem filterMap_event?_fillActions (p : Params) (choice : StreamChoice) (word : BitVec 16) :
    (fillActions p choice word).filterMap HostAction.event? = [] := by
  simp [fillActions, windowActions, streamActions_eq_map, HostAction.event?]

/-- A table's replay leaves one delay an entry (R175). -/
theorem filterMap_event?_table (hp : HostParams) (table : List Descriptor) :
    (table.flatMap (descriptorActions hp)).filterMap HostAction.event? =
      List.replicate table.length (.waited hp.tInitStep) := by
  induction table with
  | nil => rfl
  | cons e table ih =>
    rw [List.flatMap_cons, List.filterMap_append, ih]
    rfl

/-- An initialization leaves the pulse, the hold after the software reset and a delay an entry (R171, R174, R175). -/
theorem filterMap_event?_initActions (hp : HostParams) (p : Params) (choice : StreamChoice) :
    (initActions hp p choice).filterMap HostAction.event? =
      [.resetLine .active, .waited hp.tReset, .resetLine .inactive, .waited hp.tReset, .resetLine .high,
        .waited hp.tSwreset] ++ List.replicate hp.initTable.length (.waited hp.tInitStep) := by
  simp [initActions, filterMap_event?_table, filterMap_event?_fillActions, hardResetActions, softResetActions,
    HostAction.event?, List.filterMap_cons]

/-- An initialization whose actions are all performed ends in Ready (R176). -/
theorem foldl_stateAfter_initActions (hp : HostParams) (p : Params) (choice : StreamChoice) (before : InitState) :
    (initActions hp p choice).foldl HostAction.stateAfter before = .ready :=
  List.foldl_append ..

/-- Settles O59: the requests of the plan all succeed, so the plan is performed, and its frames and events are those of
its parts. -/
theorem initializationEndsReady : Obligations.InitializationEndsReady := by
  intro patience hp choice d n hpat hpanel hphase hreq hport htable hfit hanswers hn
  have hframes := carriedFrames_initActions hp (choice 0) hpanel
  have hlen := length_carriedFrames_initActions_le hp (choice 0) hpanel
  have hne : streamPayloads (choice 0) (clearBytes d.block.params) ≠ [] := by
    intro hnil
    have hflatten := streamPayloads_flatten (choice 0) (clearBytes d.block.params)
    rw [hnil] at hflatten
    exact clearBytes_ne_nil hpanel hflatten.symm
  have hrun := perform_of_ok hpat ⟨hphase, hreq, hport⟩
    (fun q => succeeds_of_mem_initActions hpanel hfit (List.all_eq_true.mp htable)) hanswers (hlen.trans hn)
  refine ⟨d.performed (initActions hp d.block.params (choice 0)),
    (streamPayloads (choice 0) (clearBytes d.block.params)).map dataFrame, hrun,
    foldl_stateAfter_initActions .., rfl, rfl, ?dc, ?events, ?trace, ?levels, ?bytes⟩
  case dc => rw [performed_dc, hframes, selectLineAfter_append, selectLineAfter_dataFrames _ hne]
  case events => rw [performed_events, filterMap_event?_initActions, List.append_assoc]
  case trace =>
    rw [performed_trace, hframes]
    simp only [List.append_assoc]
    rfl
  case levels =>
    intro f hf
    obtain ⟨payload, -, rfl⟩ := List.mem_map.mp hf
    exact ⟨rfl, rfl⟩
  case bytes => rw [flatMap_bytes_dataFrame, streamPayloads_flatten, clearBytes]

end Sys2Proof.Machine
end

/-! ## Proofs: exceptions (spec/60_exceptions.md) -/

section
namespace Sys2Proof.Machine

variable {s t : State} {i : Instr} {resp : Response}

/-! ### The response a step gives -/

/-- A frame's outcome answers `Ok` or the transport's error, never that the request was invalid (R191). -/
theorem outcomeResponse_ne_invalidArgument (o : FrameOutcome) : outcomeResponse o ≠ .invalidArgument := by
  cases o <;> exact Response.noConfusion

/-- Only a failed frame is answered with the transport's error, and with its own (R193). -/
theorem outcomeResponse_eq_transportFailure {o : FrameOutcome} {e : TransportError}
    (h : outcomeResponse o = .transportFailure e) : o = .err e := by
  cases o <;> cases h
  rfl

/-- Validation blames the transport for nothing (R194). -/
theorem requestVerdict_ne_transportFailure (p : Params) (i : Instr) (e : TransportError) :
    requestVerdict p i ≠ .transportFailure e := by
  cases i with
  | setWindow x y w h => simp only [requestVerdict]; split <;> exact Response.noConfusion
  | _ => exact Response.noConfusion

/-- A transaction leaves the request running, or carries the frame that ends it with that frame's outcome (R195). -/
theorem emit_running_or_answered (l : Level) (bytes : List Byte) (hp : s.phase ≠ .idle) :
    ((s.emit l bytes).responses = s.responses ∧ (s.emit l bytes).phase ≠ .idle) ∨
    (∃ o, s.emit l bytes = afterRun s s.port [⟨l, bytes, o⟩] [outcomeResponse o]) := by
  obtain ⟨-, h⟩ | ⟨-, hq, h⟩ | ⟨hok, hq, -⟩ | ⟨e, herr, -⟩ := emit_cases l bytes s
  · exact .inl (by rw [h]; exact ⟨rfl, hp⟩)
  · exact .inl (by rw [h]; exact ⟨rfl, hq⟩)
  · exact .inr ⟨.ok, emit_eq_afterRun_of_ok_idle l bytes hok hq⟩
  · exact .inr ⟨.err e, emit_eq_afterRun_of_err l bytes herr⟩

/-- The three ways a step can treat the responses: it gives none and ends no request; it answers the request at the
port, which has no frame, with its verdict; or it carries the phase's frame and answers with that frame's outcome
(R190, R195). -/
theorem step_response_cases (hs : step s = .next t) :
    (t.responses = s.responses ∧ (s.phase ≠ .idle → t.phase ≠ .idle)) ∨
    (∃ i rest, s.phase = .idle ∧ decodeRequest s.port = .instr i rest ∧ requestFrames s.params i = [] ∧
      t = State.respond (requestVerdict s.params i) { s with port := rest }) ∨
    (∃ (b : FrameBody) (o : FrameOutcome), s.phase ≠ .idle ∧ phaseFrame s.params s.phase s.req = some b ∧
      t = afterRun s s.port [⟨b.1, b.2, o⟩] [outcomeResponse o]) := by
  obtain ⟨hp, -, rfl⟩ | ⟨i, rest, hp, hd, ha⟩ | ⟨b, hp, hb, rfl⟩ := step_cases hs
  · exact .inl ⟨rfl, id⟩
  · obtain ⟨hnone, rfl⟩ | ⟨r, first, -, -, -, -, rfl⟩ := acceptance_first ha
    · exact .inr (.inl ⟨i, rest, hp, hd, hnone, rfl⟩)
    · exact .inl ⟨rfl, fun hne => absurd hp hne⟩
  · obtain ⟨hresp, hne⟩ | ⟨o, ho⟩ := emit_running_or_answered b.1 b.2 hp
    · exact .inl ⟨hresp, fun _ => hne⟩
    · exact .inr (.inr ⟨b, o, hp, hb, ho⟩)

/-- A response that a step gives is the verdict of the request at the port or the outcome of the phase's frame. -/
theorem step_of_responses_append (hs : step s = .next t) (hr : t.responses = s.responses ++ [resp]) :
    (∃ i rest, s.phase = .idle ∧ decodeRequest s.port = .instr i rest ∧ requestFrames s.params i = [] ∧
      resp = requestVerdict s.params i ∧ t = State.respond resp { s with port := rest }) ∨
    (∃ (b : FrameBody) (o : FrameOutcome), s.phase ≠ .idle ∧ phaseFrame s.params s.phase s.req = some b ∧
      resp = outcomeResponse o ∧ t = afterRun s s.port [⟨b.1, b.2, o⟩] [resp]) := by
  obtain ⟨hsame, -⟩ | ⟨i, rest, hp, hd, hnone, rfl⟩ | ⟨b, o, hp, hb, rfl⟩ := step_response_cases hs
  · simp [hsame] at hr
  · obtain rfl : requestVerdict s.params i = resp := List.singleton_inj.mp (List.append_cancel_left hr)
    exact .inl ⟨i, rest, hp, hd, hnone, rfl, rfl⟩
  · obtain rfl : outcomeResponse o = resp := List.singleton_inj.mp (List.append_cancel_left hr)
    exact .inr ⟨b, o, hp, hb, rfl, rfl⟩

/-! ### One response a request -/

/-- Settles O37: the verdict and the outcome of a last frame are the two ways to give a response, and both end the
request. -/
theorem responsesEndTheRequest : Obligations.ResponsesEndTheRequest := by
  intro s t hs
  obtain ⟨hsame, hrun⟩ | ⟨i, rest, hp, -, -, rfl⟩ | ⟨b, o, -, -, rfl⟩ := step_response_cases hs
  · exact ⟨.inl hsame, fun hp ht => absurd ht (hrun hp)⟩
  · exact ⟨.inr ⟨_, rfl, rfl, rfl⟩, fun hne => absurd hp hne⟩
  · exact ⟨.inr ⟨_, rfl, rfl, rfl⟩, fun _ _ => by simp [afterRun]⟩

/-! ### `InvalidArgument` -/

/-- In IDLE no request is latched (R25). -/
theorem State.Inv.req_idle (hi : s.Inv) (hp : s.phase = .idle) : s.req = none := by
  have ha := hi.request
  rw [hp] at ha
  cases hr : s.req with
  | none => rfl
  | some r => rw [hr] at ha; cases ha

/-- Answering in a state of the invariant that is in IDLE changes the responses alone. -/
theorem State.Inv.respond_eq (hi : s.Inv) (hp : s.phase = .idle) (resp : Response) :
    s.respond resp = { s with responses := s.responses ++ [resp] } := by
  rw [State.respond, ← hp, ← hi.req_idle hp]

/-- Settles O38: `InvalidArgument` is no frame's outcome, so it is the verdict on the request at the port. -/
theorem invalidArgumentLeavesTheBlockUnchanged : Obligations.InvalidArgumentLeavesTheBlockUnchanged := by
  intro s t hi hs hr
  obtain ⟨i, rest, hp, hd, -, -, rfl⟩ | ⟨-, o, -, -, ho, -⟩ := step_of_responses_append hs hr
  · exact ⟨(hi.withPort rest).respond_eq hp _, rfl, rfl, i, hd⟩
  · exact absurd ho.symm (outcomeResponse_ne_invalidArgument o)

/-! ### `TransportFailure` -/

/-- Settles O39: `TransportFailure(e)` is no verdict, so it is the outcome of the frame just carried; and a frame the
transport fails is answered with its error. -/
theorem transportFailureReportsTheFailedFrame : Obligations.TransportFailureReportsTheFailedFrame := by
  intro s t e hs
  constructor
  · intro hr
    obtain ⟨i, -, -, -, -, hverdict, -⟩ | ⟨b, o, -, -, ho, rfl⟩ := step_of_responses_append hs hr
    · exact absurd hverdict.symm (requestVerdict_ne_transportFailure s.params i e)
    · obtain rfl := outcomeResponse_eq_transportFailure ho.symm
      exact ⟨b.1, b.2, rfl⟩
  · rintro ⟨l, bytes, hf⟩
    obtain ⟨b, o, -, ho, rfl, hframe⟩ := step_of_trace_append hs hf
    obtain rfl : FrameOutcome.err e = o := congrArg Frame.outcome hframe
    rw [emit_responses, ho]
    rfl

/-! ### The table of responses -/

/-- A request that is answered had no frame and is given its verdict, or had frames and is given the outcome of one
(R191). -/
theorem response_of_request (hi : s.Inv) (hs : step s = .next t) (hr : t.responses = s.responses ++ [resp])
    (hreq : (s.phase = .idle ∧ ∃ rest, decodeRequest s.port = .instr i rest) ∨
      (∃ q, s.phase ≠ .idle ∧ s.req = some q ∧ i = q.instr)) :
    (requestFrames s.params i = [] ∧ resp = requestVerdict s.params i) ∨
    (requestFrames s.params i ≠ [] ∧ resp ≠ .invalidArgument) := by
  obtain ⟨j, _, hp, hd, hnone, hverdict, -⟩ | ⟨b, o, hp, hb, rfl, -⟩ := step_of_responses_append hs hr
  · obtain ⟨-, rest, hd'⟩ | ⟨q, hne, -⟩ := hreq
    · cases hd.symm.trans hd'
      exact .inl ⟨hnone, hverdict⟩
    · exact absurd hp hne
  · obtain ⟨hidle, -⟩ | ⟨q, -, hq, rfl⟩ := hreq
    · exact absurd hidle hp
    · have hget := requestFrames_getElem?_of_phaseFrame (hq ▸ hi.request) (hq ▸ hb)
      exact .inr ⟨List.ne_nil_of_mem (List.mem_of_getElem? hget), outcomeResponse_ne_invalidArgument o⟩

/-- A window has frames when it is valid, and only then (R79, R123). -/
theorem requestFrames_setWindow_eq_nil {p : Params} {x y w h : Half} :
    requestFrames p (.setWindow x y w h) = [] ↔ windowValid p x y w h = false := by
  cases hv : windowValid p x y w h <;> simp [requestFrames, hv, windowFrames]

theorem requestVerdict_setWindow_of_invalid {p : Params} {x y w h : Half} (hv : windowValid p x y w h = false) :
    requestVerdict p (.setWindow x y w h) = .invalidArgument := by
  simp [requestVerdict, hv]

/-- Settles O40: of each kind of request, whether it has a frame decides whether its verdict or an outcome is given. -/
theorem responsesFollowTheTable : Obligations.ResponsesFollowTheTable := by
  intro s t resp i hi hs hr hreq
  have hcases := response_of_request hi hs hr hreq
  refine ⟨?cmd, ?data, ?setWindow, ?reserved⟩
  case cmd =>
    rintro c rfl
    obtain ⟨hnone, -⟩ | ⟨-, hne⟩ := hcases
    · cases hnone
    · exact hne
  case data =>
    rintro payload rfl
    obtain ⟨-, rfl⟩ | ⟨hframes, hne⟩ := hcases
    · exact ⟨Response.noConfusion, fun _ => rfl⟩
    · exact ⟨hne, fun hnil => absurd (if_pos hnil) hframes⟩
  case setWindow =>
    rintro x y w h rfl
    obtain ⟨hnone, rfl⟩ | ⟨hframes, hne⟩ := hcases
    · have hv := requestFrames_setWindow_eq_nil.mp hnone
      exact iff_of_true (requestVerdict_setWindow_of_invalid hv) hv
    · exact iff_of_false hne fun hv => hframes (requestFrames_setWindow_eq_nil.mpr hv)
  case reserved =>
    rintro op rfl
    obtain ⟨-, hverdict⟩ | ⟨hframes, -⟩ := hcases
    · exact hverdict
    · exact absurd rfl hframes

/-! ### Waiting for the transport -/

/-- Settles O41: a phase of the invariant has a frame to carry, and without an answer its transaction changes the select
line and the consultation only. -/
theorem unansweredFrameKeepsThePhase : Obligations.UnansweredFrameKeepsThePhase := by
  intro s hi hp ha
  obtain ⟨b, hb⟩ := phaseFrame_of_agrees hi.request hp
  have hstep := step_phase hb
  rw [emit_of_pending b.1 b.2 ha] at hstep
  exact ⟨_, hstep, rfl, rfl, rfl, rfl, rfl, rfl⟩

/-! ### Codes -/

/-- Settles O45: the codes are those of `Response.code`, which does not look at the transport's error. -/
theorem responseCodesAreZeroOneTwo : Obligations.ResponseCodesAreZeroOneTwo :=
  ⟨rfl, rfl, fun _ => rfl⟩

end Sys2Proof.Machine
end

/-! ## Proofs: the idle block (spec/70_reset_and_hazards.md section 5) -/

section
namespace Sys2Proof.Machine

/-- Settles O12: from an empty port nothing is fetched, and a step that fetches nothing waits. -/
theorem idleBlockWithNoRequestStays : Obligations.IdleBlockWithNoRequestStays :=
  fun _ hp hport => step_waiting hp hport

end Sys2Proof.Machine
end
